-- ==== Sys2Proof/Word.lean ====
section
/-! DEFINITION. The word types of the memory loader: every payload word, sequencer code, memory cell and shift
register is one byte (spec 00_scope.md R6, 30_encoding.md R59); an address and an operand are one nibble. -/

namespace Sys2Proof

/-- One 8-bit word (`WORD_BITS = 8`, R6). -/
abbrev Byte := BitVec 8

/-- One 4-bit field: an address (`ADDR_BITS = 4`, R6), an opcode or an operand (R49). -/
abbrev Nibble := BitVec 4

end Sys2Proof
end

