-- ==== Sys2Proof/Config.lean ====
section
/-! DEFINITION. What is fixed for one machine, and what the spec leaves open: the constants of 00_scope.md R6 and
R10, the parameters of the environment (R10, 10_state.md R28), and the free values, each an opaque constant that
no proof can evaluate. -/

namespace Sys2Proof

/-- The memory size in words, `CAPACITY = PROGRAM_LEN = 16` (R6). -/
def Config.capacity : Nat := 16

/-- The largest literal, `LITERAL_MAX = 15` (R10, 40_image_assembly.md R77). -/
def Config.literalMax : Nat := 15

/-- The largest delay a field of `T_BITS = 16` bits holds, in ms (R10, 45_load_sequencer.md R101). -/
def Config.delayMax : Nat := 65535

/-- `TARGET_SHIFT_EDGE`: the clock edge on which the target shifts (R10, 20_memory.md R34). -/
inductive ShiftEdge where
  | rising
  | falling
  deriving DecidableEq, Repr

/-- `TARGET_FIRST_BIT_LANDS`: the bit of the register in which the first bit of a word ends (R10, R35). -/
inductive FirstBitLands where
  | bit0
  | bit7
  deriving DecidableEq, Repr

/-- `TARGET_LATCH_MODE`: whether the outputs follow the register while LATCH is high, or are taken when it
rises (R10, R37). -/
inductive LatchMode where
  | level
  | edge
  deriving DecidableEq, Repr

/-- `EXTRA_TOKEN_POLICY`: what the assembler does with tokens a line does not need (R10, R65). -/
inductive ExtraTokenPolicy where
  | ignore
  | reject
  deriving DecidableEq, Repr

/-- `HEX_CASE`: the case of the digits a-f in display text (R10, R78). -/
inductive HexCase where
  | lower
  | upper
  deriving DecidableEq, Repr

/-- The parameters of the environment and of the host's assembler (R10, R28). They are data of the state
(log 2) so that a statement holds for every choice; no step writes them. -/
structure Params where
  shiftEdge : ShiftEdge
  firstBit : FirstBitLands
  latchMode : LatchMode
  extraTokens : ExtraTokenPolicy
  hexCase : HexCase
  deriving DecidableEq, Repr

/-- The spec's own choices of R10 (92_eei_decisions.md D8, D9, D10, D24, D26). -/
def Params.spec : Params where
  shiftEdge := .rising
  firstBit := .bit0
  latchMode := .level
  extraTokens := .ignore
  hexCase := .lower

/-- The pin path's answer to one event, the draw `io_ok` (41_io_primitives.md R88): accepted, or rejected; a
rejected SET leaves its line at the new level (`landed`) or at the old one (20_memory.md R40). -/
inductive PinAnswer where
  | ok
  | fail (landed : Bool)
  deriving DecidableEq, Repr, Inhabited

/-- FREE VALUE. The answer of the pin path to draw `n`, under no law (R88). Log 1. -/
opaque Config.pinAnswer : Nat → PinAnswer

/-- FREE VALUE. The time in ms that the event of draw `n` takes beyond its lower bound (R13, R87). Log 20. -/
opaque Config.spareMs : Nat → Nat

/-- FREE VALUE. What the cell the address leaves holds after an address change with `WE_n = 0` (R39). Log 30. -/
opaque Config.cellLeft : Nat → Byte

/-- FREE VALUE. What the cell the address moves to holds after an address change with `WE_n = 0` (R39). Log 30. -/
opaque Config.cellEntered : Nat → Byte

/-- FREE VALUE. What SR holds after an aborted shift (70_reset_and_hazards.md R132). Log 11. -/
opaque Config.abortedShift : Nat → Byte

/-- FREE VALUE. What word `i` of IMG holds after the RESET command of draw `n` (10_state.md R30). Log 3. -/
opaque Config.imageAfterReset : Nat → Nat → Byte

/-- FREE VALUE. `LITERAL_TEXT`: the display text of a literal line (R10, 40_image_assembly.md R79). Log 29. -/
opaque Config.literalText : Nat → String

/-- FREE VALUE. One less than the exit value of a host process that failed; the value itself is any number
other than 0 (60_exceptions.md R118, 93_implementation_defined.md item 16). Log 18. -/
opaque Config.exitValueLessOne : Nat → Nat

/-- OPEN PARAMETER. `PIN_MAP`: the physical pin behind each logical line id; no rule reads it (30_encoding.md
R56, 92_eei_decisions.md D3). Log 27. -/
opaque Config.pinMap : BitVec 3 → Nat

/-- OPEN PARAMETER. `INIT_PIN_LEVELS`: the level of each logical line before the reference script's first drive
(70_reset_and_hazards.md R133, 92_eei_decisions.md D37). Log 27. -/
opaque Config.initPinLevels : BitVec 3 → Bool

end Sys2Proof
end

