-- ==== Sys2Proof/Syntax.lean ====
section
/-! DEFINITION. The instructions: one constructor for each row of spec/opcode_table.json, in the table's order.
The table has three formats (30_encoding.md R49, R52, R57): the SAP-1 instruction word, the SAP-1 data word, and
the sequencer code. -/

namespace Sys2Proof

/-- The 8 output lines, in the order of their logical ids 0..7 (30_encoding.md R56, 10_state.md R24). -/
inductive Line where
  | a0
  | a1
  | a2
  | a3
  | data
  | clk
  | latch
  | weN
  deriving DecidableEq, Repr

/-- The serial bit order `ORDER` (00_scope.md R7). -/
inductive Order where
  | lsbFirst
  | msbFirst
  deriving DecidableEq, Repr

/-- The delay selector `tt` of WAIT (30_encoding.md R57). -/
inductive DelaySel where
  | tAddr
  | tLatch
  | tWe
  | tGap
  deriving DecidableEq, Repr

/-- The column "format" of spec/opcode_table.json: which of the three encodings a byte is read in. -/
inductive Format where
  | sap1Word
  | sap1Data
  | seqOp
  deriving DecidableEq, Repr

/-- The instructions: 11 SAP-1 instruction words and the literal, which the host's assembler turns into image
entries (40_image_assembly.md R66 to R77), and the 13 operations of the block (R57). -/
inductive Instr where
  /-- NOP (R66) -/
  | nop
  /-- LDA x (R67) -/
  | lda (x : Nibble)
  /-- ADD x (R68) -/
  | add (x : Nibble)
  /-- SUB x (R69) -/
  | sub (x : Nibble)
  /-- STA x (R70) -/
  | sta (x : Nibble)
  /-- LDI x (R71) -/
  | ldi (x : Nibble)
  /-- JMP x (R72) -/
  | jmp (x : Nibble)
  /-- JC x (R73) -/
  | jc (x : Nibble)
  /-- JZ x (R74) -/
  | jz (x : Nibble)
  /-- OUT (R75) -/
  | out
  /-- HLT (R76) -/
  | hlt
  /-- A literal line; its value is the whole byte, limited to `LITERAL_MAX` (R52, R77) -/
  | literal (v : Byte)
  /-- SETPIN p, v (R86) -/
  | setpin (p : Line) (v : Bool)
  /-- WAIT tt (R87) -/
  | wait (d : DelaySel)
  /-- ADDRSEL a (R89) -/
  | addrsel (a : Nibble)
  /-- SHBEGIN (R91) -/
  | shbegin
  /-- SHBIT b (R92) -/
  | shbit (b : Bool)
  /-- LATCH (R94) -/
  | latch
  /-- WRPULSE (R96) -/
  | wrpulse
  /-- GAP (R97) -/
  | gap
  /-- LOADWORD a (R99) -/
  | loadword (a : Nibble)
  /-- LOAD o; the delays and the 16 words travel as data outside the code (R57, R100) -/
  | load (o : Order)
  /-- READ_STATUS (R105) -/
  | readStatus
  /-- SHIFTOUT o (R93) -/
  | shiftout (o : Order)
  /-- RESET (R130) -/
  | reset
  deriving DecidableEq, Repr

end Sys2Proof
end

