-- ==== Sys2Proof/WellFormed.lean ====
section
/-! DEFINITION. Which instructions are well formed. Every operand but one has exactly the values its field admits;
the literal's value is a whole byte that must be at most `LITERAL_MAX` (40_image_assembly.md R77, 30_encoding.md
R52). -/

namespace Sys2Proof

/-- The check of the operands, one arm for each constructor. -/
def Instr.wf : Instr → Bool
  | .nop => true
  | .lda _ => true
  | .add _ => true
  | .sub _ => true
  | .sta _ => true
  | .ldi _ => true
  | .jmp _ => true
  | .jc _ => true
  | .jz _ => true
  | .out => true
  | .hlt => true
  | .literal v => decide (v.toNat ≤ Config.literalMax)
  | .setpin _ _ => true
  | .wait _ => true
  | .addrsel _ => true
  | .shbegin => true
  | .shbit _ => true
  | .latch => true
  | .wrpulse => true
  | .gap => true
  | .loadword _ => true
  | .load _ => true
  | .readStatus => true
  | .shiftout _ => true
  | .reset => true

end Sys2Proof
end

