-- ==== Sys2Proof/Decode.lean ====
section
/-! DEFINITION. The decoder of the three formats, total on every byte and rejecting by name, and after it the
encoder, both from the tables of 30_encoding.md R50, R52 and R57. A byte means something only together with its
format: the formats overlap (log 8). -/

namespace Sys2Proof

/-- Why a byte is not an instruction of the format it is read in. -/
inductive DecodeError where
  /-- a sequencer code outside R57's table (R58) -/
  | reservedCode (b : Byte)
  /-- an instruction word with one of the unused opcodes 0x9..0xD (R51) -/
  | unusedOpcode (b : Byte)
  /-- an instruction word NOP, OUT or HLT whose operand nibble is not 0, which no instruction line gives (R50,
  R51) -/
  | operandNotZero (b : Byte)
  /-- a data word above `LITERAL_MAX` (R52) -/
  | literalTooLarge (b : Byte)
  deriving DecidableEq, Repr

/-- What the decoder answers. -/
inductive Decoded where
  | instr (i : Instr)
  | invalid (e : DecodeError)
  deriving DecidableEq, Repr

/-- The instruction, where there is one. -/
def Decoded.toOption : Decoded → Option Instr
  | .instr i => some i
  | .invalid _ => none

/-- The logical line id `ppp` (R56). -/
def Line.id : Line → BitVec 3
  | .a0 => 0
  | .a1 => 1
  | .a2 => 2
  | .a3 => 3
  | .data => 4
  | .clk => 5
  | .latch => 6
  | .weN => 7

/-- The line with logical id `p` (R56). -/
def Line.ofId (p : BitVec 3) : Line :=
  if p = 0 then .a0 else if p = 1 then .a1 else if p = 2 then .a2 else if p = 3 then .a3
  else if p = 4 then .data else if p = 5 then .clk else if p = 6 then .latch else .weN

/-- The selector `tt`: 00 T_ADDR, 01 T_LATCH, 10 T_WE, 11 T_GAP (R57). -/
def DelaySel.bits : DelaySel → BitVec 2
  | .tAddr => 0
  | .tLatch => 1
  | .tWe => 2
  | .tGap => 3

/-- The delay the selector `tt` names (R57). -/
def DelaySel.ofBits (t : BitVec 2) : DelaySel :=
  if t = 0 then .tAddr else if t = 1 then .tLatch else if t = 2 then .tWe else .tGap

/-- The bit `o`: 0 = LSB_FIRST, 1 = MSB_FIRST (R57, 10_state.md R21). -/
def Order.bit : Order → Bool
  | .lsbFirst => false
  | .msbFirst => true

/-- The order the bit `o` names. -/
def Order.ofBit (o : Bool) : Order := if o then .msbFirst else .lsbFirst

/-- `opcode = word >> 4`, that is `word[7:4]` (R53). -/
def opcodeOf (b : Byte) : Nibble := b.extractLsb' 4 4

/-- `operand = word & 0xF`, that is `word[3:0]` (R53). -/
def operandOf (b : Byte) : Nibble := b.extractLsb' 0 4

/-- An instruction without operand: its operand nibble "is always 0" (R50). -/
def bareWord (b : Byte) (i : Instr) : Decoded :=
  if operandOf b = 0 then .instr i else .invalid (.operandNotZero b)

/-- The word of an instruction line (R50, R53). -/
def decodeWord (b : Byte) : Decoded :=
  if opcodeOf b = 0x0 then bareWord b .nop
  else if opcodeOf b = 0x1 then .instr (.lda (operandOf b))
  else if opcodeOf b = 0x2 then .instr (.add (operandOf b))
  else if opcodeOf b = 0x3 then .instr (.sub (operandOf b))
  else if opcodeOf b = 0x4 then .instr (.sta (operandOf b))
  else if opcodeOf b = 0x5 then .instr (.ldi (operandOf b))
  else if opcodeOf b = 0x6 then .instr (.jmp (operandOf b))
  else if opcodeOf b = 0x7 then .instr (.jc (operandOf b))
  else if opcodeOf b = 0x8 then .instr (.jz (operandOf b))
  else if opcodeOf b = 0xE then bareWord b .out
  else if opcodeOf b = 0xF then bareWord b .hlt
  else .invalid (.unusedOpcode b)

/-- The word of a literal line: the value itself, at most `LITERAL_MAX` (R52). -/
def decodeData (b : Byte) : Decoded :=
  if b.toNat ≤ Config.literalMax then .instr (.literal b) else .invalid (.literalTooLarge b)

/-- A sequencer code, by the patterns of R57's table; every other code is reserved (R58). -/
def decodeSeq (b : Byte) : Decoded :=
  if b &&& 0xF0 = 0x00 then .instr (.setpin (Line.ofId (b.extractLsb' 1 3)) (b.getLsbD 0))
  else if b &&& 0xFC = 0x10 then .instr (.wait (DelaySel.ofBits (b.extractLsb' 0 2)))
  else if b &&& 0xF0 = 0x20 then .instr (.addrsel (b.extractLsb' 0 4))
  else if b = 0x30 then .instr .shbegin
  else if b &&& 0xFE = 0x40 then .instr (.shbit (b.getLsbD 0))
  else if b = 0x50 then .instr .latch
  else if b = 0x60 then .instr .wrpulse
  else if b = 0x70 then .instr .gap
  else if b &&& 0xF0 = 0x80 then .instr (.loadword (b.extractLsb' 0 4))
  else if b &&& 0xFE = 0x90 then .instr (.load (Order.ofBit (b.getLsbD 0)))
  else if b = 0xA0 then .instr .readStatus
  else if b &&& 0xFE = 0xB0 then .instr (.shiftout (Order.ofBit (b.getLsbD 0)))
  else if b = 0xFF then .instr .reset
  else .invalid (.reservedCode b)

/-- The decoder: a byte read in a format. -/
def decode : Format → Byte → Decoded
  | .sap1Word, b => decodeWord b
  | .sap1Data, b => decodeData b
  | .seqOp, b => decodeSeq b

/-- The format of an instruction's row in the opcode table. -/
def Instr.format : Instr → Format
  | .nop => .sap1Word
  | .lda _ => .sap1Word
  | .add _ => .sap1Word
  | .sub _ => .sap1Word
  | .sta _ => .sap1Word
  | .ldi _ => .sap1Word
  | .jmp _ => .sap1Word
  | .jc _ => .sap1Word
  | .jz _ => .sap1Word
  | .out => .sap1Word
  | .hlt => .sap1Word
  | .literal _ => .sap1Data
  | .setpin _ _ => .seqOp
  | .wait _ => .seqOp
  | .addrsel _ => .seqOp
  | .shbegin => .seqOp
  | .shbit _ => .seqOp
  | .latch => .seqOp
  | .wrpulse => .seqOp
  | .gap => .seqOp
  | .loadword _ => .seqOp
  | .load _ => .seqOp
  | .readStatus => .seqOp
  | .shiftout _ => .seqOp
  | .reset => .seqOp

/-- The encoder: the byte of an instruction in its format (R50, R52, R57). -/
def encode : Instr → Byte
  | .nop => 0x00
  | .lda x => 0x1#4 ++ x
  | .add x => 0x2#4 ++ x
  | .sub x => 0x3#4 ++ x
  | .sta x => 0x4#4 ++ x
  | .ldi x => 0x5#4 ++ x
  | .jmp x => 0x6#4 ++ x
  | .jc x => 0x7#4 ++ x
  | .jz x => 0x8#4 ++ x
  | .out => 0xE0
  | .hlt => 0xF0
  | .literal v => v
  | .setpin p v => 0x0#4 ++ (p.id ++ BitVec.ofBool v)
  | .wait d => 0b000100#6 ++ d.bits
  | .addrsel a => 0x2#4 ++ a
  | .shbegin => 0x30
  | .shbit b => 0b0100000#7 ++ BitVec.ofBool b
  | .latch => 0x50
  | .wrpulse => 0x60
  | .gap => 0x70
  | .loadword a => 0x8#4 ++ a
  | .load o => 0b1001000#7 ++ BitVec.ofBool o.bit
  | .readStatus => 0xA0
  | .shiftout o => 0b1011000#7 ++ BitVec.ofBool o.bit
  | .reset => 0xFF

/-- One row of spec/opcode_table.json. -/
structure Row where
  mnemonic : String
  format : Format
  mask : Byte
  pattern : Byte
  deriving DecidableEq, Repr

/-- The table's row of each instruction: its mnemonic, format, mask and match, as the table has them. -/
def rowOf : Instr → Row
  | .nop => ⟨"NOP", .sap1Word, 0xFF, 0x00⟩
  | .lda _ => ⟨"LDA", .sap1Word, 0xF0, 0x10⟩
  | .add _ => ⟨"ADD", .sap1Word, 0xF0, 0x20⟩
  | .sub _ => ⟨"SUB", .sap1Word, 0xF0, 0x30⟩
  | .sta _ => ⟨"STA", .sap1Word, 0xF0, 0x40⟩
  | .ldi _ => ⟨"LDI", .sap1Word, 0xF0, 0x50⟩
  | .jmp _ => ⟨"JMP", .sap1Word, 0xF0, 0x60⟩
  | .jc _ => ⟨"JC", .sap1Word, 0xF0, 0x70⟩
  | .jz _ => ⟨"JZ", .sap1Word, 0xF0, 0x80⟩
  | .out => ⟨"OUT", .sap1Word, 0xFF, 0xE0⟩
  | .hlt => ⟨"HLT", .sap1Word, 0xFF, 0xF0⟩
  | .literal _ => ⟨"LITERAL", .sap1Data, 0xF0, 0x00⟩
  | .setpin _ _ => ⟨"SETPIN", .seqOp, 0xF0, 0x00⟩
  | .wait _ => ⟨"WAIT", .seqOp, 0xFC, 0x10⟩
  | .addrsel _ => ⟨"ADDRSEL", .seqOp, 0xF0, 0x20⟩
  | .shbegin => ⟨"SHBEGIN", .seqOp, 0xFF, 0x30⟩
  | .shbit _ => ⟨"SHBIT", .seqOp, 0xFE, 0x40⟩
  | .latch => ⟨"LATCH", .seqOp, 0xFF, 0x50⟩
  | .wrpulse => ⟨"WRPULSE", .seqOp, 0xFF, 0x60⟩
  | .gap => ⟨"GAP", .seqOp, 0xFF, 0x70⟩
  | .loadword _ => ⟨"LOADWORD", .seqOp, 0xF0, 0x80⟩
  | .load _ => ⟨"LOAD", .seqOp, 0xFE, 0x90⟩
  | .readStatus => ⟨"READ_STATUS", .seqOp, 0xFF, 0xA0⟩
  | .shiftout _ => ⟨"SHIFTOUT", .seqOp, 0xFE, 0xB0⟩
  | .reset => ⟨"RESET", .seqOp, 0xFF, 0xFF⟩

/-- The format in which a byte given without its format is read (log 8; DESIGN CHOICE): the sequencer code where
there is one, for those are the block's own; else the instruction word; else the data word. -/
def tableFormat (b : Byte) : Format :=
  if (decodeSeq b).toOption.isSome then .seqOp
  else if (decodeWord b).toOption.isSome then .sap1Word
  else .sap1Data

/-- The instruction the decoder reads from a table row's word of `nbits` bits: every word is one byte (R59). -/
def decodeTableWord (nbits w : Nat) : Option Instr :=
  if nbits = 8 ∧ w < 256 then
    (decode (tableFormat (BitVec.ofNat 8 w)) (BitVec.ofNat 8 w)).toOption
  else none

end Sys2Proof
end

