-- ==== Sys2Proof/Machine/State.lean ====
section
/-! DEFINITION. The state of a run: the block's registers and output lines (10_state.md R17 to R25), the target
devices (R26), the ghosts (R29), the parameters and draws of the environment (R28), and the host agent (R16). All
of it is plain data. `State.reset` is the machine after power-on (R30, 70_reset_and_hazards.md R130). -/

namespace Sys2Proof.Machine

/-- `PHASE` (R18). -/
inductive Phase where
  | idle
  | run
  | done
  | fault
  deriving DecidableEq, Repr

/-- `CFG`, the configuration register (R21). -/
structure Cfg where
  order : Order
  tAddr : BitVec 16
  tLatch : BitVec 16
  tWe : BitVec 16
  tGap : BitVec 16
  deriving DecidableEq, Repr

/-- The default and reset value of `CFG` (R21, R30). -/
def Cfg.default : Cfg where
  order := .lsbFirst
  tAddr := 0
  tLatch := 10
  tWe := 200
  tGap := 100

/-- The levels of the 8 output lines (R24); `true` is level 1. -/
structure Lines where
  a0 : Bool
  a1 : Bool
  a2 : Bool
  a3 : Bool
  data : Bool
  clk : Bool
  latch : Bool
  weN : Bool
  deriving DecidableEq, Repr

/-- The levels after reset: `WE_n = 1`, every other line 0 (R30). -/
def Lines.reset : Lines where
  a0 := false
  a1 := false
  a2 := false
  a3 := false
  data := false
  clk := false
  latch := false
  weN := true

/-- The target memory `M`: the cells whose content is known, as (address, byte) pairs with addresses strictly
rising (log 5). A cell not listed holds its unspecified power-up content (R26). -/
abbrev Memory := List Host.Cell

/-- An event: `SET(p, v)` or `WAIT(t)` with the duration `t` in ms (00_scope.md R14, 41_io_primitives.md R87). -/
inductive Event where
  | set (p : Line) (v : Bool)
  | wait (ms : Nat)
  deriving DecidableEq, Repr

/-- One entry of `TRACE`: an event and its outcome, `ok` or `fail` (R14, R29). -/
structure TraceEntry where
  event : Event
  ok : Bool
  deriving DecidableEq, Repr

/-- One entry of a program image: display text and word (40_image_assembly.md R60, R78). -/
structure Entry where
  text : String
  word : Byte
  deriving DecidableEq, Repr

/-- The assembler's errors with what each names (60_exceptions.md R112, 40_image_assembly.md R82). -/
inductive AsmError where
  /-- code 1: the line number, from 1 -/
  | malformedLine (line : Nat)
  /-- code 2: the line number and the token -/
  | unknownOperand (line : Nat) (token : List Char)
  /-- code 3: the number of lines -/
  | capacityOverflow (lines : Nat)
  /-- a capacity other than 16 is refused (R60, 00_scope.md R6); the spec gives it no code (log 17) -/
  | capacityRefused (capacity : Nat)
  deriving DecidableEq, Repr

/-- The host's assembler at work: the entries of the lines read so far, and the error that ended it (R60, R82). -/
structure Asm where
  entries : List Entry
  error : Option AsmError
  deriving DecidableEq, Repr

/-- The data that travel with LOAD: the delays in ms and the words of the image, as the host gives them, legal or
not (30_encoding.md R57, 45_load_sequencer.md R101). -/
structure LoadData where
  tAddr : Nat
  tLatch : Nat
  tWe : Nat
  tGap : Nat
  image : List Nat
  deriving DecidableEq, Repr

/-- What a command returned to the host: the status word of READ_STATUS (R105), or the refusal Busy (R104). -/
inductive Reply where
  | status (w : BitVec 16)
  | busy
  deriving DecidableEq, Repr

/-- One move of the run (log 6). The sequencer moves, or the host does: it issues a code to be decoded and
executed, puts data on offer for LOAD, or drives its assembler. -/
inductive Turn where
  /-- one step of the sequencer (R102) -/
  | sequencer
  /-- the byte `b`, read in its format -/
  | code (format : Format) (b : Byte)
  /-- the byte `b`, read in its format, and RESET after the first `k` events of the operation it is, or after all of
  them if it has fewer (70_reset_and_hazards.md R130, 43_shift_controller.md R95) -/
  | codeThenReset (format : Format) (b : Byte) (k : Nat)
  /-- the host puts the data of its next LOAD on offer -/
  | offer (d : LoadData)
  /-- the assembler starts on a listing (R60) -/
  | beginListing (capacity : Nat)
  /-- the assembler reads the next line (R61) -/
  | line (text : List Char)
  /-- the listing has no more lines (R80, R81) -/
  | endListing
  deriving DecidableEq, Repr

/-- Why a step stops with a fault. Both are SAFE: they stand for positions that name nothing, which no run from
reset reaches (log 22). The block's own faults are states with `PHASE = FAULT`, not these. -/
inductive Fault where
  /-- raised by the sequencer's step in RUN with `A_CNT > 15`: there is no such word of the image and no such
  cell (R31, R44) -/
  | noSuchWord
  /-- raised by the sequencer's step in RUN with `J` past the end of the event list (R98) -/
  | noSuchEvent
  deriving DecidableEq, Repr

/-- Why a step is refused. All are SAFE: the run stops. -/
inductive Refusal where
  /-- raised by `exec` for an instruction without a meaning (none in this model) -/
  | notModelled (mnemonic : String)
  /-- raised by the step for a byte that is no instruction of its format (30_encoding.md R51, R52, R58;
  93_implementation_defined.md items 3, 17) -/
  | undecodable (e : DecodeError)
  /-- raised by the step for an operation of the pin path issued beside the sequencer while a load runs
  (60_exceptions.md R123, 93_implementation_defined.md item 1) -/
  | secondDriver
  deriving DecidableEq, Repr

/-- The whole state. -/
structure State where
  /-- `PHASE` (R17, R18) -/
  phase : Phase
  /-- `A_CNT`, the address being programmed (R17, R19) -/
  aCnt : BitVec 5
  /-- `J`, the index of the next event (R17, R19) -/
  j : BitVec 6
  /-- `W`, the word being shifted (R17) -/
  w : Byte
  /-- `CODE` (R17, 60_exceptions.md R112) -/
  code : BitVec 3
  /-- `CFG` (R21) -/
  cfg : Cfg
  /-- `IMG[0..15]` (R25) -/
  img : Vector Byte 16
  /-- the output lines (R24) -/
  lines : Lines
  /-- `SR`, the target's shift register (R26) -/
  sr : Byte
  /-- `Q`, the target's storage register (R26) -/
  q : Byte
  /-- `M[0..15]`, the target memory (R26) -/
  m : Memory
  /-- `TRACE` (R29), oldest first -/
  trace : List TraceEntry
  /-- `TIME` in ms (R29) -/
  time : Nat
  /-- the parameters of the environment (R28, log 2) -/
  params : Params
  /-- the answers of the pin path known ahead, for the next events in order (R28, log 1) -/
  pinPath : List PinAnswer
  /-- how many free values have been used (log 1) -/
  draws : Nat
  /-- the moves to come (log 6) -/
  turns : List Turn
  /-- the data on offer for LOAD (log 7) -/
  offer : LoadData
  /-- what the last command that returns something returned (R104, R105) -/
  reply : Option Reply
  /-- the assembler (R60) -/
  asm : Asm
  deriving DecidableEq, Repr

/-- The machine after power-on, which acts as RESET (R130): every value of R30. Where R30 says "unspecified" the
value is the model's own: `IMG` (log 3), `SR` and `Q` (log 4), `M` (log 5); the model's own fields are those of
logs 1, 2, 6 and 7. -/
def State.reset : State where
  phase := .idle
  aCnt := 0
  j := 0
  w := 0
  code := 0
  cfg := .default
  img := .replicate 16 0
  lines := .reset
  sr := 0
  q := 0
  m := []
  trace := []
  time := 0
  params := .spec
  pinPath := []
  draws := 0
  turns := []
  offer := { tAddr := 0, tLatch := 10, tWe := 200, tGap := 100, image := List.replicate 16 0 }
  reply := none
  asm := { entries := [], error := none }

/-- The lines as the pin controller leaves them before the reference script's first drive (70_reset_and_hazards.md
R133, log 27). -/
def Lines.beforeScript : Lines where
  a0 := Config.initPinLevels Line.a0.id
  a1 := Config.initPinLevels Line.a1.id
  a2 := Config.initPinLevels Line.a2.id
  a3 := Config.initPinLevels Line.a3.id
  data := Config.initPinLevels Line.data.id
  clk := Config.initPinLevels Line.clk.id
  latch := Config.initPinLevels Line.latch.id
  weN := Config.initPinLevels Line.weN.id

/-- The start of the reference script, which has no reset: the lines at `INIT_PIN_LEVELS` (R133). A model of that
script, not of the block. -/
def State.beforeScript : State := { State.reset with lines := .beforeScript }

end Sys2Proof.Machine
end

