-- ==== Sys2Proof/Machine/Operands.lean ====
section
/-! DEFINITION. The operand forms: lines and addresses, delays, the serial frame, LOAD's data and their legality,
and the primitive operations of which every composite is a list. -/

namespace Sys2Proof.Machine

/-- The level of line `p` (R24). -/
def Lines.get (l : Lines) : Line → Bool
  | .a0 => l.a0
  | .a1 => l.a1
  | .a2 => l.a2
  | .a3 => l.a3
  | .data => l.data
  | .clk => l.clk
  | .latch => l.latch
  | .weN => l.weN

/-- The lines with line `p` at level `v`. -/
def Lines.set (l : Lines) (p : Line) (v : Bool) : Lines :=
  match p with
  | .a0 => { l with a0 := v }
  | .a1 => { l with a1 := v }
  | .a2 => { l with a2 := v }
  | .a3 => { l with a3 := v }
  | .data => { l with data := v }
  | .clk => { l with clk := v }
  | .latch => { l with latch := v }
  | .weN => { l with weN := v }

/-- Whether `p` is one of `A0..A3`. -/
def isAddressLine : Line → Bool
  | .a0 => true
  | .a1 => true
  | .a2 => true
  | .a3 => true
  | .data => false
  | .clk => false
  | .latch => false
  | .weN => false

/-- The address presented to the memory, `A = {A3, A2, A1, A0}` (20_memory.md R33). -/
def Lines.address (l : Lines) : Nibble :=
  BitVec.ofBool l.a3 ++ (BitVec.ofBool l.a2 ++ (BitVec.ofBool l.a1 ++ BitVec.ofBool l.a0))

/-- The configured delay a selector names, in ms (30_encoding.md R57). -/
def Cfg.delay (c : Cfg) : DelaySel → Nat
  | .tAddr => c.tAddr.toNat
  | .tLatch => c.tLatch.toNat
  | .tWe => c.tWe.toNat
  | .tGap => c.tGap.toNat

/-- The offset `o` of 45_load_sequencer.md R98: 1 if `T_ADDR > 0`, else 0. -/
def Cfg.offset (c : Cfg) : Nat := if c.tAddr = 0 then 0 else 1

/-- The length of an event list, `36 + o` (R98). -/
def Cfg.eventCount (c : Cfg) : Nat := 36 + c.offset

/-- The serial frame `s_0 .. s_7` of a word (30_encoding.md R54). -/
def frame (w : Byte) : Order → List Bool
  | .lsbFirst => [w[0], w[1], w[2], w[3], w[4], w[5], w[6], w[7]]
  | .msbFirst => [w[7], w[6], w[5], w[4], w[3], w[2], w[1], w[0]]

/-- `bitrev8(w)`: the byte whose bit `i` is `w[7-i]` (00_scope.md R11). -/
def bitrev8 (w : Byte) : Byte := BitVec.ofBoolListBE [w[0], w[1], w[2], w[3], w[4], w[5], w[6], w[7]]

/-- The byte the target's register holds once the frame of `w` is shifted in (43_shift_controller.md R93,
45_load_sequencer.md R107). -/
def deliver (o : Order) (f : FirstBitLands) (w : Byte) : Byte :=
  match o, f with
  | .lsbFirst, .bit0 => w
  | .msbFirst, .bit7 => w
  | .lsbFirst, .bit7 => bitrev8 w
  | .msbFirst, .bit0 => bitrev8 w

/-- A primitive operation: SETPIN or WAIT with their operands (R86, R87). Every composite operation is a fixed
list of them. -/
inductive Prim where
  | set (p : Line) (v : Bool)
  | wait (d : DelaySel)
  deriving DecidableEq, Repr

/-- The instruction a primitive operation is, whose code R57 gives. -/
def Prim.instr : Prim → Instr
  | .set p v => .setpin p v
  | .wait d => .wait d

/-- The event a primitive operation performs under a configuration: a WAIT records "the selected duration" (R87). -/
def Prim.event (c : Cfg) : Prim → Event
  | .set p v => .set p v
  | .wait d => .wait (c.delay d)

/-- The events of ADDRSEL (42_address_driver.md R89). -/
def addrselPrims (a : Nibble) (c : Cfg) : List Prim :=
  [.set .a0 a[0], .set .a1 a[1], .set .a2 a[2], .set .a3 a[3]]
    ++ (if c.tAddr = 0 then [] else [.wait .tAddr])

/-- The event of SHBEGIN (43_shift_controller.md R91). -/
def shbeginPrims : List Prim := [.set .latch false]

/-- The events of SHBIT (R92). -/
def shbitPrims (b : Bool) : List Prim := [.set .data b, .set .clk true, .set .clk false]

/-- The events of LATCH (R94). -/
def latchPrims : List Prim := [.set .latch true, .wait .tLatch, .set .latch false]

/-- The events of SHIFTOUT: SHBEGIN, a SHBIT for each bit of the frame, LATCH (R93). -/
def shiftoutPrims (w : Byte) (o : Order) : List Prim :=
  shbeginPrims ++ (frame w o).flatMap shbitPrims ++ latchPrims

/-- The events of WRPULSE (44_write_sequencer.md R96). -/
def wrpulsePrims : List Prim := [.set .weN false, .wait .tWe, .set .weN true]

/-- The event of GAP (R97). -/
def gapPrims : List Prim := [.wait .tGap]

/-- The event list `E(a, w, cfg)` of an address (45_load_sequencer.md R98). -/
def eventList (a : Nibble) (w : Byte) (c : Cfg) : List Prim :=
  addrselPrims a c ++ shiftoutPrims w c.order ++ wrpulsePrims ++ gapPrims

/-- Whether a load that stops at event `j` aborts a shift: after the `SET(LATCH, 0)` of event `4 + o` and before
the `SET(LATCH, 1)` of event `29 + o` has succeeded (70_reset_and_hazards.md R132, log 11). -/
def Cfg.aborts (c : Cfg) (j : Nat) : Bool := decide (5 + c.offset ≤ j ∧ j ≤ 29 + c.offset)

/-- Whether a SHIFTOUT that stops at its event `k` aborts a shift (R93, R132, log 11). -/
def shiftoutAborts (k : Nat) : Bool := decide (1 ≤ k ∧ k ≤ 25)

/-- The conditions of `legal(img, cfg)` on LOAD's data; `ORDER` is one bit of the code, so always legal (R101). -/
def LoadData.legal (d : LoadData) : Bool :=
  decide (d.image.length = Config.capacity) && d.image.all (fun w => decide (w ≤ 255))
    && decide (10 ≤ d.tLatch) && decide (200 ≤ d.tWe) && decide (100 ≤ d.tGap)
    && decide (d.tAddr ≤ Config.delayMax) && decide (d.tLatch ≤ Config.delayMax)
    && decide (d.tWe ≤ Config.delayMax) && decide (d.tGap ≤ Config.delayMax)

/-- The configuration a LOAD with order `o` brings (R100). -/
def LoadData.cfg (d : LoadData) (o : Order) : Cfg where
  order := o
  tAddr := BitVec.ofNat 16 d.tAddr
  tLatch := BitVec.ofNat 16 d.tLatch
  tWe := BitVec.ofNat 16 d.tWe
  tGap := BitVec.ofNat 16 d.tGap

/-- The image a LOAD brings (R100); of a legal LOAD, its 16 words. -/
def LoadData.words (d : LoadData) : Vector Byte 16 :=
  Vector.ofFn fun i => BitVec.ofNat 8 (d.image.getD i.val 0)

/-- Whether a configuration lies within the legal values of 10_state.md R21. -/
def Cfg.legal (c : Cfg) : Bool :=
  decide (10 ≤ c.tLatch.toNat) && decide (200 ≤ c.tWe.toNat) && decide (100 ≤ c.tGap.toNat)

/-- Word `a` of the image buffer, `IMG[a]` (20_memory.md R32). -/
def imgRead (img : Vector Byte 16) (a : Nibble) : Byte := img.get a.toFin

end Sys2Proof.Machine
end

