-- ==== Sys2Proof/Machine/Flags.lean ====
section
/-! DEFINITION. The status flags, the status word and the error codes (10_state.md R18, R20, R22; 60_exceptions.md
R112), and what the host process reports when it fails (R118). -/

namespace Sys2Proof.Machine

/-- The two bits of `PHASE` (R18). -/
def Phase.bits : Phase → BitVec 2
  | .idle => 0b00
  | .run => 0b01
  | .done => 0b10
  | .fault => 0b11

/-- Code 0, no error (R112). -/
def codeNone : BitVec 3 := 0

/-- Code 1, MalformedLine (R112). -/
def codeMalformedLine : BitVec 3 := 1

/-- Code 2, UnknownOperand (R112). -/
def codeUnknownOperand : BitVec 3 := 2

/-- Code 3, CapacityOverflow (R112). -/
def codeCapacityOverflow : BitVec 3 := 3

/-- Code 4, HardwareIOError (R112, R113). -/
def codeHardwareIOError : BitVec 3 := 4

/-- Code 5, ConfigRefused (R112, R114). -/
def codeConfigRefused : BitVec 3 := 5

/-- Code 6, Busy, returned to the host and never stored (R112, R117). -/
def codeBusy : BitVec 3 := 6

/-- The code of an assembler error (R112); a refused capacity has none (log 17). -/
def AsmError.code : AsmError → Option (BitVec 3)
  | .malformedLine _ => some codeMalformedLine
  | .unknownOperand _ _ => some codeUnknownOperand
  | .capacityOverflow _ => some codeCapacityOverflow
  | .capacityRefused _ => none

/-- The code of a reply that is a refusal (R104). -/
def Reply.code : Reply → Option (BitVec 3)
  | .status _ => none
  | .busy => some codeBusy

/-- The flag `BUSY` (R20). -/
def State.busyFlag (s : State) : Bool := decide (s.phase = .run)

/-- The flag `DONE` (R20). -/
def State.doneFlag (s : State) : Bool := decide (s.phase = .done)

/-- The flag `FAULT` (R20). -/
def State.faultFlag (s : State) : Bool := decide (s.phase = .fault)

/-- The status word: `STATUS[1:0] = PHASE`, `[4:2] = CODE`, `[8:5] = A_CNT[3:0]`, `[14:9] = J`, `[15] = 0` (R22). -/
def State.statusWord (s : State) : BitVec 16 :=
  0#1 ++ (s.j ++ (s.aCnt.extractLsb' 0 4 ++ (s.code ++ s.phase.bits)))

/-- Whether the host process has failed by one of the kinds R118 names: an assembler error of codes 1 to 3, or
HardwareIOError. Of a refused capacity, which has no code, and of ConfigRefused and Busy the spec does not say
whether the process fails, and the model reports no failure (log 18, DESIGN CHOICE). -/
def State.hostFailed (s : State) : Bool :=
  (s.asm.error.bind AsmError.code).isSome || (s.faultFlag && decide (s.code = codeHardwareIOError))

/-- The value with which a failed host process exits: any value other than 0 (R118, log 18). `none`
says that no kind of R118 has arisen. -/
def State.hostExit (s : State) : Option Nat :=
  if s.hostFailed then some (Config.exitValueLessOne s.draws + 1) else none

end Sys2Proof.Machine
end

