-- ==== Sys2Proof/Machine/Ops.lean ====
section
/-! DEFINITION. The named operations over the state: the target memory, the target's reaction to a drive
(20_memory.md R33 to R40), performing one event and a list of events (41_io_primitives.md R86 to R88), entering
the fault state (60_exceptions.md R115), leaving it by a LOAD (R120, 45_load_sequencer.md R100), and the
sequencer's address advance (R103). -/

namespace Sys2Proof.Machine

/-- What cell `a` holds, where that is known: an unlisted cell holds its unspecified power-up content (log 5). -/
def Memory.read : Memory → Nat → Option Byte
  | [], _ => none
  | (k, v) :: rest, a => if k = a then some v else Memory.read rest a

/-- `MemWrite(M, a, v)` (00_scope.md R12), keeping the addresses strictly rising. -/
def Memory.write : Memory → Nat → Byte → Memory
  | [], a, v => [(a, v)]
  | (k, u) :: rest, a, v =>
    if a < k then (a, v) :: (k, u) :: rest
    else if a = k then (a, v) :: rest
    else (k, u) :: Memory.write rest a v

/-- The canonical form of `M`: addresses strictly rising, all within 0x0..0xF (20_memory.md R44). An unlisted cell
reads as no value, so no entry can equal it. -/
def Memory.wf (m : Memory) : Bool :=
  decide (m.Pairwise fun c d => c.1 < d.1) && m.all fun c => decide (c.1 < 16)

/-- The address on the address lines, as a cell of `M` (R33). -/
def State.cell (s : State) : Nat := s.lines.address.toNat

/-- Cell `a` of the target memory. -/
def State.readCell (s : State) (a : Nat) : Option Byte := Memory.read s.m a

/-- Whether a change of `CLK` from `old` to `new` shifts the target (R34). -/
def shifts : ShiftEdge → Bool → Bool → Bool
  | .rising, old, new => !old && new
  | .falling, old, new => old && !new

/-- `shiftin(SR, d)` (R35). -/
def shiftin (f : FirstBitLands) (sr : Byte) (d : Bool) : Byte :=
  match f with
  | .bit0 => BitVec.ofBool d ++ sr.extractLsb' 1 7
  | .bit7 => sr.extractLsb' 0 7 ++ BitVec.ofBool d

/-- `SR` after line `p` is driven to `v` (R34): only a change of CLK shifts. -/
def State.srAfter (s : State) (p : Line) (v : Bool) : Byte :=
  if p = .clk ∧ shifts s.params.shiftEdge s.lines.clk v = true then
    shiftin s.params.firstBit s.sr s.lines.data
  else s.sr

/-- Whether a drive of line `p` to `v` moves the address while `WE_n = 0` (R39). -/
def State.movesWrite (s : State) (p : Line) (v : Bool) : Bool :=
  isAddressLine p && decide (s.lines.get p ≠ v) && !(s.lines.set p v).weN

/-- The change of line `p` to `v` and what the change itself does: an edge of CLK shifts (R34), a rise of LATCH
transfers in EDGE mode (R37), an address move with `WE_n = 0` leaves the two cells any value (R39). A line set to the
level it holds changes nothing (R43). -/
def State.setLine (s : State) (p : Line) (v : Bool) : State :=
  { s with
    lines := s.lines.set p v
    sr := s.srAfter p v
    q :=
      if s.params.latchMode = .edge ∧ p = .latch ∧ s.lines.latch = false ∧ v = true then s.srAfter p v else s.q
    m :=
      if s.movesWrite p v = true then
        Memory.write (Memory.write s.m s.cell (Config.cellLeft s.draws))
          (s.lines.set p v).address.toNat (Config.cellEntered s.draws)
      else s.m }

/-- "The outputs are released and follow `SR`" (R37): LEVEL mode with LATCH high. -/
abbrev State.released (s : State) : Prop := s.params.latchMode = .level ∧ s.lines.latch = true

/-- `Q` "after every event" (R37, 92_eei_decisions.md D10): `SR` while the outputs are released, else as it was. -/
def State.qSettled (s : State) : Byte := if s.released then s.sr else s.q

/-- `M` "after every event" (R38, D11): `M[A] <- Q` while `WE_n = 0`, else as it was. -/
def State.mSettled (s : State) : Memory :=
  if s.lines.weN = true then s.m else Memory.write s.m s.cell s.qSettled

/-- The target after an event, whichever event it was (R37, R38, log 10). -/
def State.settle (s : State) : State := { s with q := s.qSettled, m := s.mSettled }

/-- `Q` after the event that drives line `p` to `v` (R37). -/
def State.qAfter (s : State) (p : Line) (v : Bool) : Byte := (s.setLine p v).qSettled

/-- `M` after the event that drives line `p` to `v`: R38, which "is not applied" at an address move with `WE_n = 0`
(R39). -/
def State.mAfter (s : State) (p : Line) (v : Bool) : Memory :=
  if s.movesWrite p v = true then (s.setLine p v).m else (s.setLine p v).mSettled

/-- Line `p` takes level `v` and the target reacts (R33 to R39). -/
def State.drive (s : State) (p : Line) (v : Bool) : State :=
  { s with
    lines := s.lines.set p v
    sr := s.srAfter p v
    q := s.qAfter p v
    m := s.mAfter p v }

/-- The pin path's answer to the `k`-th event from here (R88, log 1): the one known ahead, else a free value. -/
def State.answerAt (s : State) (k : Nat) : PinAnswer :=
  match s.pinPath[k]? with
  | some a => a
  | none => Config.pinAnswer (s.draws + k)

/-- One event is over: its answer is used up and the free values move on (log 1). -/
def State.spend (s : State) : State :=
  { s with pinPath := s.pinPath.tail, draws := s.draws + 1 }

/-- `TIME` moves on by `ms` and some more (00_scope.md R13, log 20). -/
def State.pass (s : State) (ms : Nat) : State :=
  { s with time := s.time + (ms + Config.spareMs s.draws) }

/-- `TRACE.append(e, outcome)` (R14). -/
def State.record (s : State) (e : Event) (ok : Bool) : State :=
  { s with trace := s.trace ++ [⟨e, ok⟩] }

/-- TAKING AN EXCEPTION: fault entry, `raise Fault(code, a, j)` (60_exceptions.md R115). The phase becomes FAULT,
the code is recorded, `A_CNT` and `J` hold the failing position; nothing else is saved and no line is driven. -/
def State.raiseFault (s : State) (code : BitVec 3) (a : BitVec 5) (j : BitVec 6) : State :=
  { s with phase := .fault, code := code, aCnt := a, j := j }

/-- HardwareIOError at position `(a, j)` (R113). In FAULT "no second fault can arise before RESET or LOAD" (R121), so
there the recorded code and position stay (10_state.md R22, log 13). -/
def State.ioError (s : State) (a : BitVec 5) (j : BitVec 6) : State :=
  if s.phase = .fault then s else s.raiseFault codeHardwareIOError a j

/-- RETURNING FROM ONE: FAULT is left by a new LOAD, which starts at address 0 (R120, 45_load_sequencer.md R100),
or by RESET (`State.resetBlock`). -/
def State.startLoad (s : State) (c : Cfg) (words : Vector Byte 16) : State :=
  { s with phase := .run, code := codeNone, aCnt := 0, j := 0, cfg := c, img := words }

/-- The effect of an accepted primitive operation (R86, R87). A WAIT changes no line, and the target is as after every
event, which changes nothing of a settled one (log 10). -/
def State.perform (s : State) : Prim → State
  | .set p v => (s.drive p v).pass 0
  | .wait d => s.settle.pass (s.cfg.delay d)

/-- The effect of a rejected primitive operation (20_memory.md R40): a SET leaves its line at the new level or at
the old one and the target reacts to it; a WAIT changes no line and may have lasted any time. -/
def State.failPrim (s : State) (landed : Bool) : Prim → State
  | .set p v => (s.drive p (if landed then v else s.lines.get p)).pass 0
  | .wait _ => s.settle.pass 0

/-- An accepted event: its effect takes place and the trace records it (R86, R87). -/
def State.accept (s : State) (e : Prim) : State := ((s.perform e).record (e.event s.cfg) true).spend

/-- A rejected event: what it leaves on the lines, its record in the trace, and HardwareIOError at the present
position (R88, 20_memory.md R40). -/
def State.reject (s : State) (landed : Bool) (e : Prim) : State :=
  (((s.failPrim landed e).record (e.event s.cfg) false).spend).ioError s.aCnt s.j

/-- One event, as the pin path answers (R86, R87, R88). The Bool says whether it was accepted. -/
def State.attempt (s : State) (e : Prim) : State × Bool :=
  match s.answerAt 0 with
  | .ok => (s.accept e, true)
  | .fail landed => (s.reject landed e, false)

/-- A list of events, each accepted. -/
def State.acceptAll (s : State) : List Prim → State
  | [] => s
  | e :: rest => (s.accept e).acceptAll rest

/-- A list of events, ended by the first that is rejected (R88); the answer names that event's index, counted from
`k`. -/
def State.runPrims (s : State) (k : Nat) : List Prim → State × Option Nat
  | [] => (s, none)
  | e :: rest =>
    match s.attempt e with
    | (t, true) => t.runPrims (k + 1) rest
    | (t, false) => (t, some k)

/-- `SR` holds any value after an aborted shift (70_reset_and_hazards.md R132, log 11). Where a failed SET has left LATCH
high in LEVEL mode, `Q` is the new word (60_exceptions.md R116) and follows `SR` (R37), so `SR` stays that word. -/
def State.loseShift (s : State) : State :=
  { s with
    sr := if s.released then s.sr else Config.abortedShift s.draws
    draws := s.draws + 1 }

/-- The position after an accepted event: `J <- J + 1`, and at the end of the list the address advance, `J <- 0`,
`A_CNT <- A_CNT + 1`, and `PHASE <- DONE` when `A_CNT` becomes 16 (45_load_sequencer.md R102, R103). -/
def State.advance (s : State) : State :=
  if s.j.toNat + 1 = s.cfg.eventCount then
    if s.aCnt.toNat + 1 = 16 then { s with j := 0, aCnt := s.aCnt + 1, phase := .done }
    else { s with j := 0, aCnt := s.aCnt + 1 }
  else { s with j := s.j + 1 }

/-- A new image entry at the end of the assembler's image (40_image_assembly.md R60). The spec says nothing of an
entry that comes when no listing is under assembly; that it goes to the end of the entries there too, also of a
finished image or after an error, is the model's choice (log 17, DESIGN CHOICE). The words on offer for LOAD stay. -/
def State.emit (s : State) (e : Entry) : State :=
  { s with asm := { s.asm with entries := s.asm.entries ++ [e] } }

/-- The block returns something to the host (45_load_sequencer.md R104, R105). -/
def State.answerHost (s : State) (r : Reply) : State := { s with reply := some r }

end Sys2Proof.Machine
end

