-- ==== Sys2Proof/Machine/Loader.lean ====
section
/-! DEFINITION. LOADWORD, the host commands LOAD and READ_STATUS, and the sequencer's own step
(45_load_sequencer.md R98 to R105). -/

namespace Sys2Proof.Machine

/-- Whether `J` is the load's own, which a LOADWORD issued by its code leaves: in DONE it reads 0 and in FAULT it
holds the failing index (10_state.md R22, log 12). -/
def Phase.keepsJ : Phase → Bool
  | .idle => false
  | .run => false
  | .done => true
  | .fault => true

/-- The position a LOADWORD of address `a` stopped at event `k` records, "`A_CNT = a` and `J` the failing event's
index" (R99); in FAULT the recorded one stays (60_exceptions.md R121). -/
def State.stopLoadword (t : State) (p : Phase) (a : Nibble) (k : Nat) : State :=
  if p = .fault then t else t.raiseFault codeHardwareIOError (a.setWidth 5) (BitVec.ofNat 6 k)

/-- What a LOADWORD of address `a` issued in state `s` leaves. Performed to its end, `J` stands at the last event's
index (R99, log 12), but where it is the load's own; stopped at event `k`, it records its position, and `SR` holds any
value where the stop aborts a shift (R132). -/
def afterLoadword (a : Nibble) (s : State) : State × Option Nat → State
  | (t, none) => if s.phase.keepsJ = true then t else { t with j := BitVec.ofNat 6 (s.cfg.eventCount - 1) }
  | (t, some k) =>
    if s.cfg.aborts k = true then (t.stopLoadword s.phase a k).loseShift else t.stopLoadword s.phase a k

/-- `W <- MemRead(IMG, a)` (20_memory.md R32). -/
def State.fetchWord (s : State) (a : Nibble) : State := { s with w := imgRead s.img a }

/-- LOADWORD a: the word of the image, then every event of its list (R99). -/
def execLoadword (a : Nibble) (s : State) : Host.Outcome State Fault Refusal :=
  .next (afterLoadword a s
    ((s.fetchWord a).runPrims 0 (eventList a (imgRead s.img a) s.cfg)))

/-- LOAD o: refused with Busy while a load runs; refused with ConfigRefused when its data are illegal; otherwise
the load starts at address 0 (R100, R101, R104, 60_exceptions.md R119). -/
def execLoad (o : Order) (s : State) : Host.Outcome State Fault Refusal :=
  .next
    (if s.phase = .run then s.answerHost .busy
    else if s.offer.legal = true then s.startLoad (s.offer.cfg o) s.offer.words
    else s.raiseFault codeConfigRefused 0 0)

/-- READ_STATUS (R105). -/
def execReadStatus (s : State) : Host.Outcome State Fault Refusal :=
  .next (s.answerHost (.status s.statusWord))

/-- The address in `A_CNT` as the 4 bits an address has. -/
def State.address (s : State) : Nibble := s.aCnt.setWidth 4

/-- The start of the sequencer's step: at `J = 0` the word of the address is read (R102). -/
def State.beginEvent (s : State) : State := if s.j = 0 then s.fetchWord s.address else s

/-- After an event of the sequencer: an accepted one moves the position on (R102); a rejected one has raised the
fault, and where it aborts a shift `SR` holds any value (R132). -/
def afterSequencerEvent : State × Bool → State
  | (t, true) => t.advance
  | (t, false) => if t.cfg.aborts t.j.toNat = true then t.loseShift else t

/-- The sequencer's step (R102): in RUN one event; in the other phases it has none and waits (R109, log 6). -/
def sequencerStep (s : State) : Host.Outcome State Fault Refusal :=
  match s.phase with
  | .run =>
    if s.aCnt.toNat < 16 then
      match (eventList s.address s.beginEvent.w s.cfg)[s.j.toNat]? with
      | some e => .next (afterSequencerEvent (s.beginEvent.attempt e))
      | none => .fault .noSuchEvent
    else .fault .noSuchWord
  | .idle => .next s
  | .done => .next s
  | .fault => .next s

end Sys2Proof.Machine
end

