-- ==== Sys2Proof/Machine/Payload.lean ====
section
/-! DEFINITION. The SAP-1 words and the literal (40_image_assembly.md R66 to R77). The spec gives each one effect:
"it yields one image entry (display_text, word)" and "writes no flag and no block state". The entry goes to the
end of the image under assembly. What the SAP-1 does with the word is out of scope (00_scope.md R5, log 9). -/

namespace Sys2Proof.Machine

/-- `digit(x)`: the hex digit of an operand in display text (R78). -/
def hexDigitText : HexCase → Nibble → String
  | .lower, x =>
    ["0", "1", "2", "3", "4", "5", "6", "7", "8", "9", "a", "b", "c", "d", "e", "f"].getD x.toNat "0"
  | .upper, x =>
    ["0", "1", "2", "3", "4", "5", "6", "7", "8", "9", "A", "B", "C", "D", "E", "F"].getD x.toNat "0"

/-- The entry of an instruction line: the text is the mnemonic, a space, `0x` and the operand's digit (R78); the
word is `opcode * 16 + operand` (30_encoding.md R49). -/
def instrEntry (h : HexCase) (mnemonic : String) (opcode x : Nibble) : Entry where
  text := mnemonic ++ " 0x" ++ hexDigitText h x
  word := BitVec.ofNat 8 (opcode.toNat * 16 + x.toNat)

/-- The entry of a literal line (R77, R79). -/
def literalEntry (v : Byte) : Entry where
  text := Config.literalText v.toNat
  word := v

/-- NOP: word 0x00, whatever the word's operand nibble (R66). -/
def execNop (s : State) : Host.Outcome State Fault Refusal :=
  .next (s.emit (instrEntry s.params.hexCase "NOP" 0x0 0))

/-- LDA: word `0x10 | x` (R67). -/
def execLda (x : Nibble) (s : State) : Host.Outcome State Fault Refusal :=
  .next (s.emit (instrEntry s.params.hexCase "LDA" 0x1 x))

/-- ADD: word `0x20 | x` (R68). -/
def execAdd (x : Nibble) (s : State) : Host.Outcome State Fault Refusal :=
  .next (s.emit (instrEntry s.params.hexCase "ADD" 0x2 x))

/-- SUB: word `0x30 | x` (R69). -/
def execSub (x : Nibble) (s : State) : Host.Outcome State Fault Refusal :=
  .next (s.emit (instrEntry s.params.hexCase "SUB" 0x3 x))

/-- STA: word `0x40 | x` (R70). -/
def execSta (x : Nibble) (s : State) : Host.Outcome State Fault Refusal :=
  .next (s.emit (instrEntry s.params.hexCase "STA" 0x4 x))

/-- LDI: word `0x50 | x` (R71). -/
def execLdi (x : Nibble) (s : State) : Host.Outcome State Fault Refusal :=
  .next (s.emit (instrEntry s.params.hexCase "LDI" 0x5 x))

/-- JMP: word `0x60 | x` (R72). -/
def execJmp (x : Nibble) (s : State) : Host.Outcome State Fault Refusal :=
  .next (s.emit (instrEntry s.params.hexCase "JMP" 0x6 x))

/-- JC: word `0x70 | x` (R73). -/
def execJc (x : Nibble) (s : State) : Host.Outcome State Fault Refusal :=
  .next (s.emit (instrEntry s.params.hexCase "JC" 0x7 x))

/-- JZ: word `0x80 | x` (R74). -/
def execJz (x : Nibble) (s : State) : Host.Outcome State Fault Refusal :=
  .next (s.emit (instrEntry s.params.hexCase "JZ" 0x8 x))

/-- OUT: word 0xE0 (R75). -/
def execOut (s : State) : Host.Outcome State Fault Refusal :=
  .next (s.emit (instrEntry s.params.hexCase "OUT" 0xE 0))

/-- HLT: word 0xF0 (R76). -/
def execHlt (s : State) : Host.Outcome State Fault Refusal :=
  .next (s.emit (instrEntry s.params.hexCase "HLT" 0xF 0))

/-- A literal line: the word is the value (R77). -/
def execLiteral (v : Byte) (s : State) : Host.Outcome State Fault Refusal :=
  .next (s.emit (literalEntry v))

end Sys2Proof.Machine
end

