-- ==== Sys2Proof/Machine/Pins.lean ====
section
/-! DEFINITION. The pin primitives and the composite operations over them: SETPIN and WAIT (41_io_primitives.md),
ADDRSEL (42_address_driver.md), SHBEGIN, SHBIT, LATCH and SHIFTOUT (43_shift_controller.md), WRPULSE and GAP
(44_write_sequencer.md). An event the pin path rejects ends the operation and raises HardwareIOError. -/

namespace Sys2Proof.Machine

/-- SETPIN p, v (R86). -/
def execSetpin (p : Line) (v : Bool) (s : State) : Host.Outcome State Fault Refusal :=
  .next (s.attempt (.set p v)).1

/-- WAIT tt (R87); the code executes with a delay of 0 too, which the block itself never issues (log 25). -/
def execWait (d : DelaySel) (s : State) : Host.Outcome State Fault Refusal :=
  .next (s.attempt (.wait d)).1

/-- ADDRSEL a (R89). -/
def execAddrsel (a : Nibble) (s : State) : Host.Outcome State Fault Refusal :=
  .next (s.runPrims 0 (addrselPrims a s.cfg)).1

/-- SHBEGIN (R91). -/
def execShbegin (s : State) : Host.Outcome State Fault Refusal :=
  .next (s.runPrims 0 shbeginPrims).1

/-- SHBIT b (R92). -/
def execShbit (b : Bool) (s : State) : Host.Outcome State Fault Refusal :=
  .next (s.runPrims 0 (shbitPrims b)).1

/-- LATCH (R94). -/
def execLatch (s : State) : Host.Outcome State Fault Refusal :=
  .next (s.runPrims 0 latchPrims).1

/-- What a SHIFTOUT leaves: where it stopped within the shift, `SR` holds any value (R93, R132). -/
def afterShiftout : State × Option Nat → State
  | (t, none) => t
  | (t, some k) => if shiftoutAborts k = true then t.loseShift else t

/-- SHIFTOUT o: the word in `W`, in the order the code names (R93, R57, log 19). -/
def execShiftout (o : Order) (s : State) : Host.Outcome State Fault Refusal :=
  .next (afterShiftout (s.runPrims 0 (shiftoutPrims s.w o)))

/-- WRPULSE (R96). -/
def execWrpulse (s : State) : Host.Outcome State Fault Refusal :=
  .next (s.runPrims 0 wrpulsePrims).1

/-- GAP (R97). -/
def execGap (s : State) : Host.Outcome State Fault Refusal :=
  .next (s.runPrims 0 gapPrims).1

end Sys2Proof.Machine
end

