-- ==== Sys2Proof/Machine/Reset.lean ====
section
/-! DEFINITION. RESET (70_reset_and_hazards.md R130 to R132, 10_state.md R30). -/

namespace Sys2Proof.Machine

/-- The drives of RESET in their order (R130). -/
def resetDrives : List (Line × Bool) :=
  [(.weN, true), (.latch, false), (.clk, false), (.data, false),
    (.a0, false), (.a1, false), (.a2, false), (.a3, false)]

/-- The lines driven one after another, each with the target's reaction; these drives cannot fail and are no
events of the trace (R130, log 15). -/
def State.driveAll (s : State) : List (Line × Bool) → State
  | [] => s
  | (p, v) :: rest => (s.drive p v).driveAll rest

/-- The image buffer after RESET: unspecified (10_state.md R30, log 3). -/
def imageAfterReset (n : Nat) : Vector Byte 16 := Vector.ofFn fun i => Config.imageAfterReset n i.val

/-- `SR` after RESET: any value if the RESET aborts a shift and the outputs are not released (R132, log 11), else as the
drives left it. -/
def State.srAfterReset (s : State) (aborted : Bool) : Byte :=
  if aborted = true ∧ ¬s.released then Config.abortedShift s.draws else (s.driveAll resetDrives).sr

/-- The block after RESET (R130), which may abort a shift: the sequencer stopped, the lines driven, every register at
its value of R30, the ghosts cleared. The target keeps what the drives leave it. -/
def State.resetWith (s : State) (aborted : Bool) : State :=
  { s.driveAll resetDrives with
    phase := .idle
    aCnt := 0
    j := 0
    w := 0
    code := codeNone
    cfg := .default
    img := imageAfterReset s.draws
    sr := s.srAfterReset aborted
    trace := []
    time := 0
    draws := s.draws + 1 }

/-- Whether the state is that of a load within a shift (R132). -/
def State.withinShift (s : State) : Bool := decide (s.phase = .run) && s.cfg.aborts s.j.toNat

/-- RESET between two steps: a load is abandoned at its position (R131, R132). -/
def State.resetBlock (s : State) : State := s.resetWith s.withinShift

/-- RESET (R130). -/
def execReset (s : State) : Host.Outcome State Fault Refusal := .next s.resetBlock

end Sys2Proof.Machine
end

