-- ==== Sys2Proof/Machine/Dispatch.lean ====
section
/-! DEFINITION. One arm for each instruction. -/

namespace Sys2Proof.Machine

def exec (i : Instr) (s : State) : Host.Outcome State Fault Refusal :=
  match i with
  | .nop => Sys2Proof.Machine.execNop s
  | .lda x => Sys2Proof.Machine.execLda x s
  | .add x => Sys2Proof.Machine.execAdd x s
  | .sub x => Sys2Proof.Machine.execSub x s
  | .sta x => Sys2Proof.Machine.execSta x s
  | .ldi x => Sys2Proof.Machine.execLdi x s
  | .jmp x => Sys2Proof.Machine.execJmp x s
  | .jc x => Sys2Proof.Machine.execJc x s
  | .jz x => Sys2Proof.Machine.execJz x s
  | .out => Sys2Proof.Machine.execOut s
  | .hlt => Sys2Proof.Machine.execHlt s
  | .literal v => Sys2Proof.Machine.execLiteral v s
  | .setpin p v => Sys2Proof.Machine.execSetpin p v s
  | .wait d => Sys2Proof.Machine.execWait d s
  | .addrsel a => Sys2Proof.Machine.execAddrsel a s
  | .shbegin => Sys2Proof.Machine.execShbegin s
  | .shbit b => Sys2Proof.Machine.execShbit b s
  | .latch => Sys2Proof.Machine.execLatch s
  | .wrpulse => Sys2Proof.Machine.execWrpulse s
  | .gap => Sys2Proof.Machine.execGap s
  | .loadword a => Sys2Proof.Machine.execLoadword a s
  | .load o => Sys2Proof.Machine.execLoad o s
  | .readStatus => Sys2Proof.Machine.execReadStatus s
  | .shiftout o => Sys2Proof.Machine.execShiftout o s
  | .reset => Sys2Proof.Machine.execReset s

end Sys2Proof.Machine
end

