-- ==== Sys2Proof/Machine/Assembler.lean ====
section
/-! DEFINITION. The host's assembler (40_image_assembly.md R60 to R65, R77 to R85): the tokens and the grammar of a
line, the pure function `assemble`, and the same function taken a line at a time by turns of the host. -/

namespace Sys2Proof.Machine

/-- Whitespace: the six ASCII characters space, tab, line feed, vertical tab, form feed, carriage return (R61,
log 16). -/
def isSpace (c : Char) : Bool :=
  c == ' ' || c == '\t' || c == '\n' || c == '\x0b' || c == '\x0c' || c == '\r'

/-- The token read so far, if it has a character. -/
def flush (cur : List Char) : List (List Char) := if cur.isEmpty then [] else [cur]

/-- The tokens of the rest of a line, `cur` being the token read so far. -/
def tokensFrom (cur : List Char) : List Char → List (List Char)
  | [] => flush cur
  | c :: rest => if isSpace c then flush cur ++ tokensFrom [] rest else tokensFrom (cur ++ [c]) rest

/-- `split_on_whitespace(trim(line))` (R61); splitting makes no empty token, so trimming first changes nothing. -/
def tokens (line : List Char) : List (List Char) := tokensFrom [] line

/-- The value of one hexadecimal digit, of either case (R63). -/
def hexDigit (c : Char) : Option Nibble :=
  if 48 ≤ c.toNat ∧ c.toNat ≤ 57 then some (BitVec.ofNat 4 (c.toNat - 48))
  else if 65 ≤ c.toNat ∧ c.toNat ≤ 70 then some (BitVec.ofNat 4 (c.toNat - 55))
  else if 97 ≤ c.toNat ∧ c.toNat ≤ 102 then some (BitVec.ofNat 4 (c.toNat - 87))
  else none

/-- An operand or literal token: exactly one hexadecimal digit (R63). -/
def hexToken : List Char → Option Nibble
  | [c] => hexDigit c
  | _ => none

/-- The three mnemonics without operand (R62, R50). -/
def bareMnemonic (m : List Char) : Option Instr :=
  if m = ['N', 'O', 'P'] then some .nop
  else if m = ['O', 'U', 'T'] then some .out
  else if m = ['H', 'L', 'T'] then some .hlt
  else none

/-- The eight mnemonics with an operand (R62, R50). -/
def operandMnemonic (m : List Char) : Option (Nibble → Instr) :=
  if m = ['L', 'D', 'A'] then some .lda
  else if m = ['A', 'D', 'D'] then some .add
  else if m = ['S', 'U', 'B'] then some .sub
  else if m = ['S', 'T', 'A'] then some .sta
  else if m = ['L', 'D', 'I'] then some .ldi
  else if m = ['J', 'M', 'P'] then some .jmp
  else if m = ['J', 'C'] then some .jc
  else if m = ['J', 'Z'] then some .jz
  else none

/-- What a line is: an instruction or literal, or the error it raises (R112). -/
inductive Parsed where
  | instr (i : Instr)
  | error (e : AsmError)
  deriving DecidableEq, Repr

/-- `extra_token_check`: tokens a line does not need are ignored, or malformed, by policy (R65). -/
def extraTokenCheck (policy : ExtraTokenPolicy) (extra : List (List Char)) (n : Nat) (i : Instr) : Parsed :=
  match policy with
  | .ignore => .instr i
  | .reject => if extra.isEmpty then .instr i else .error (.malformedLine n)

/-- The rest of a line whose mnemonic takes an operand (R63, R64, R65). -/
def parseOperand (policy : ExtraTokenPolicy) (n : Nat) (f : Nibble → Instr) : List (List Char) → Parsed
  | [] => .error (.malformedLine n)
  | t :: extra =>
    match hexToken t with
    | none => .error (.unknownOperand n t)
    | some x => extraTokenCheck policy extra n (f x)

/-- A literal line (R77). -/
def parseLiteral (policy : ExtraTokenPolicy) (n : Nat) (m : List Char) (extra : List (List Char)) : Parsed :=
  match hexToken m with
  | none => .error (.unknownOperand n m)
  | some v => extraTokenCheck policy extra n (.literal (v.setWidth 8))

/-- Line `n` of a listing (R60). -/
def parseLine (policy : ExtraTokenPolicy) (n : Nat) (line : List Char) : Parsed :=
  match tokens line with
  | [] => .error (.malformedLine n)
  | m :: rest =>
    match bareMnemonic m with
    | some i => .instr i
    | none =>
      match operandMnemonic m with
      | some f => parseOperand policy n f rest
      | none => parseLiteral policy n m rest

/-- The image entry of a payload instruction (R66 to R77), written once more as a function of the instruction for
the pure assembler; an operation of the block has none. -/
def entryOf (h : HexCase) : Instr → Option Entry
  | .nop => some (instrEntry h "NOP" 0x0 0)
  | .lda x => some (instrEntry h "LDA" 0x1 x)
  | .add x => some (instrEntry h "ADD" 0x2 x)
  | .sub x => some (instrEntry h "SUB" 0x3 x)
  | .sta x => some (instrEntry h "STA" 0x4 x)
  | .ldi x => some (instrEntry h "LDI" 0x5 x)
  | .jmp x => some (instrEntry h "JMP" 0x6 x)
  | .jc x => some (instrEntry h "JC" 0x7 x)
  | .jz x => some (instrEntry h "JZ" 0x8 x)
  | .out => some (instrEntry h "OUT" 0xE 0)
  | .hlt => some (instrEntry h "HLT" 0xF 0)
  | .literal v => some (literalEntry v)
  | .setpin _ _ => none
  | .wait _ => none
  | .addrsel _ => none
  | .shbegin => none
  | .shbit _ => none
  | .latch => none
  | .wrpulse => none
  | .gap => none
  | .loadword _ => none
  | .load _ => none
  | .readStatus => none
  | .shiftout _ => none
  | .reset => none

/-- What `assemble` returns. -/
inductive Assembled where
  | image (entries : List Entry)
  | error (e : AsmError)
  deriving DecidableEq, Repr

/-- The padding entry (R80). -/
def paddingEntry : Entry where
  text := "0x00"
  word := 0

/-- `while len(out) < capacity: out.append(("0x00", 0))` (R80). -/
def padded (out : List Entry) : List Entry :=
  out ++ List.replicate (Config.capacity - out.length) paddingEntry

/-- The end of a listing: overflow, or padding (R80, R81). -/
def finishImage (out : List Entry) : Assembled :=
  if Config.capacity < out.length then .error (.capacityOverflow out.length) else .image (padded out)

/-- The lines from the one after those whose entries are `out` on; the first error ends it (R60, R82). -/
def assembleFrom (p : Params) (out : List Entry) : List (List Char) → Assembled
  | [] => finishImage out
  | line :: rest =>
    match parseLine p.extraTokens (out.length + 1) line with
    | .error e => .error e
    | .instr i => assembleFrom p (out ++ (entryOf p.hexCase i).toList) rest

/-- The pure function `assemble(lines, capacity)` (R60). -/
def assemble (p : Params) (lines : List (List Char)) (capacity : Nat) : Assembled :=
  if capacity = Config.capacity then assembleFrom p [] lines else .error (.capacityRefused capacity)

/-- One row of the report the host may print: address, text and byte; its layout is not specified (R84). -/
structure ReportRow where
  address : Nat
  text : String
  word : Byte
  deriving DecidableEq, Repr

/-- The report of an image (R84). -/
def report (image : List Entry) : List ReportRow :=
  image.zipIdx.map fun e => ⟨e.2, e.1.text, e.1.word⟩

/-- The assembler stops with an error (R82). -/
def State.asmFail (s : State) (e : AsmError) : State := { s with asm := { s.asm with error := some e } }

/-- The assembler starts on a listing; a capacity other than 16 is refused (R60, log 17). The spec's `assemble` is one
call that runs to its end, and says nothing of a listing that begins while another is under assembly; that the new one
starts afresh, the unfinished one's entries and error dropped and the offer kept, is the model's choice (log 17, DESIGN
CHOICE). -/
def State.beginListing (s : State) (capacity : Nat) : State :=
  { s with
    asm :=
      { entries := []
        error := if capacity = Config.capacity then none else some (.capacityRefused capacity) } }

/-- What the assembler does with its next line: an instruction or literal to be taken, or a state; once it has
failed, lines are not examined (R82). The number of the line is one more than the entries so far (R60). -/
inductive LineTaken where
  | run (i : Instr)
  | stays (s : State)

/-- The assembler reads its next line. -/
def State.readLine (s : State) (line : List Char) : LineTaken :=
  if s.asm.error.isSome then .stays s
  else
    match parseLine s.params.extraTokens (s.asm.entries.length + 1) line with
    | .instr i => .run i
    | .error e => .stays (s.asmFail e)

/-- The image is on offer for LOAD (10_state.md R25: the block receives only the words). -/
def State.offerImage (s : State) (image : List Entry) : State :=
  { s with
    asm := { s.asm with entries := image }
    offer := { s.offer with image := image.map fun e => e.word.toNat } }

/-- The listing ends: overflow, or padding and the image on offer for LOAD (R80, R81). The spec does not say what
ending a listing does when none is under assembly; that the entries there are padded, or overflow, and go on offer all
the same is the model's choice (log 17, DESIGN CHOICE). -/
def State.endListing (s : State) : State :=
  if s.asm.error.isSome then s
  else
    match finishImage s.asm.entries with
    | .image out => s.offerImage out
    | .error e => s.asmFail e

end Sys2Proof.Machine
end

