-- ==== Sys2Proof/Machine/Issue.lean ====
section
/-! DEFINITION. How a turn becomes an instruction: fetching and decoding a code, and which operations use the pin
path, that is belong to the sequencer alone while a load runs. -/

namespace Sys2Proof.Machine

/-- Whether an instruction uses the pin path, the capability "exclusively owned by the Loader for the duration of a
load call" (10_state.md R16, 60_exceptions.md R123). The three host commands and the assembler's lines do not. -/
def usesPinPath : Instr → Bool
  | .nop => false
  | .lda _ => false
  | .add _ => false
  | .sub _ => false
  | .sta _ => false
  | .ldi _ => false
  | .jmp _ => false
  | .jc _ => false
  | .jz _ => false
  | .out => false
  | .hlt => false
  | .literal _ => false
  | .setpin _ _ => true
  | .wait _ => true
  | .addrsel _ => true
  | .shbegin => true
  | .shbit _ => true
  | .latch => true
  | .wrpulse => true
  | .gap => true
  | .loadword _ => true
  | .load _ => false
  | .readStatus => false
  | .shiftout _ => true
  | .reset => false

/-- What a code issued in state `s` is: an instruction to run, or the reason it is refused. -/
inductive Issued where
  | run (i : Instr)
  | refuse (r : Refusal)

/-- Issuing the byte `b` read in format `f`: it must decode (30_encoding.md R58), and while a load runs no
operation of the pin path is admitted beside the sequencer's own (60_exceptions.md R123, log 14). -/
def State.issue (s : State) (f : Format) (b : Byte) : Issued :=
  match decode f b with
  | .invalid e => .refuse (.undecodable e)
  | .instr i => if s.phase = .run ∧ usesPinPath i = true then .refuse .secondDriver else .run i

/-- The turn that issues a table row's word. -/
def wordTurn (w : Nat) : Turn := .code (tableFormat (BitVec.ofNat 8 w)) (BitVec.ofNat 8 w)

end Sys2Proof.Machine
end

