-- ==== Sys2Proof/Machine/Abandon.lean ====
section
/-! DEFINITION. An operation issued by its code that a RESET stops between two of its events (43_shift_controller.md
R95, 60_exceptions.md R119, 70_reset_and_hazards.md R130 to R132). -/

namespace Sys2Proof.Machine

/-- The events of an operation of the pin path, in their order; the others have none. -/
def opEvents (s : State) : Instr → List Prim
  | .nop => []
  | .lda _ => []
  | .add _ => []
  | .sub _ => []
  | .sta _ => []
  | .ldi _ => []
  | .jmp _ => []
  | .jc _ => []
  | .jz _ => []
  | .out => []
  | .hlt => []
  | .literal _ => []
  | .setpin p v => [.set p v]
  | .wait d => [.wait d]
  | .addrsel a => addrselPrims a s.cfg
  | .shbegin => shbeginPrims
  | .shbit b => shbitPrims b
  | .latch => latchPrims
  | .wrpulse => wrpulsePrims
  | .gap => gapPrims
  | .loadword a => eventList a (imgRead s.img a) s.cfg
  | .load _ => []
  | .readStatus => []
  | .shiftout o => shiftoutPrims s.w o
  | .reset => []

/-- Whether an operation stopped before its event `k` has completed aborts a shift (R132, log 11). -/
def opAborts (c : Cfg) (k : Nat) : Instr → Bool
  | .nop => false
  | .lda _ => false
  | .add _ => false
  | .sub _ => false
  | .sta _ => false
  | .ldi _ => false
  | .jmp _ => false
  | .jc _ => false
  | .jz _ => false
  | .out => false
  | .hlt => false
  | .literal _ => false
  | .setpin _ _ => false
  | .wait _ => false
  | .addrsel _ => false
  | .shbegin => false
  | .shbit _ => false
  | .latch => false
  | .wrpulse => false
  | .gap => false
  | .loadword _ => c.aborts k
  | .load _ => false
  | .readStatus => false
  | .shiftout _ => shiftoutAborts k
  | .reset => false

/-- The first `k` events of an operation of the pin path, each complete before the next, then RESET, and no further
event (R119, R130). The operation stops sooner at an event the pin path rejects; RESET comes in that case too. -/
def State.abandon (s : State) (i : Instr) (k : Nat) : State :=
  match s.runPrims 0 ((opEvents s i).take k) with
  | (t, stop) => t.resetWith (opAborts s.cfg (stop.getD k) i)

/-- An instruction with RESET after its first `k` events; one without events is complete before the RESET. -/
def execThenReset (i : Instr) (k : Nat) (s : State) : Host.Outcome State Fault Refusal :=
  if usesPinPath i = true then .next (s.abandon i k)
  else
    match exec i s with
    | .next t => .next t.resetBlock
    | .fault f => .fault f
    | .refused r => .refused r

end Sys2Proof.Machine
end

