-- ==== Sys2Proof/Machine/Step.lean ====
section
/-! DEFINITION. One step: the next turn is taken (log 6). With no turn waiting the sequencer moves. -/

namespace Sys2Proof.Machine

/-- Taking a turn. A code that decodes is executed; a line of a listing that parses is executed too. -/
def takeTurn (t : Turn) (s : State) : Host.Outcome State Fault Refusal :=
  match t with
  | .sequencer => sequencerStep s
  | .code f b =>
    match s.issue f b with
    | .run i => exec i s
    | .refuse r => .refused r
  | .codeThenReset f b k =>
    match s.issue f b with
    | .run i => execThenReset i k s
    | .refuse r => .refused r
  | .offer d => .next { s with offer := d }
  | .beginListing capacity => .next (s.beginListing capacity)
  | .line text =>
    match s.readLine text with
    | .run i => exec i s
    | .stays t => .next t
  | .endListing => .next s.endListing

/-- One step. -/
def step (s : State) : Host.Outcome State Fault Refusal :=
  match s.turns with
  | [] => sequencerStep s
  | t :: rest => takeTurn t { s with turns := rest }

/-- `s` with the instruction word `w` issued as the very next turn (log 6, log 8). -/
def State.withFetchWord (s : State) (nbits w : Nat) : State :=
  if nbits = 8 then { s with turns := wordTurn w :: s.turns } else s

end Sys2Proof.Machine
end

