-- ==== Sys2Proof/Safety.lean ====
section
/-! DEFINITION. What counts as a safe state and a safe run, in the terms the claims use: the invariant of the
block's registers, the fit of the lines to the sequencer's position, the premise of a clean load, and the frames. -/

namespace Sys2Proof.Machine

/-- The pin path accepts each of the next `n` events (41_io_primitives.md R88). -/
def State.answersOk (s : State) (n : Nat) : Prop := ∀ k, k < n → s.answerAt k = .ok

/-- What a rejected event makes of the fault's registers: HardwareIOError at the present position, but in FAULT the
code stands that stood there (60_exceptions.md R113, R115, R121). -/
def FaultsHere (s t : State) : Prop :=
  t.phase = .fault ∧ t.code = (if s.phase = .fault then s.code else 4) ∧ t.aCnt = s.aCnt ∧ t.j = s.j

/-- The pin path accepts the next `n` events and rejects the one after them. -/
def State.rejectsFirst (s : State) (n : Nat) (landed : Bool) : Prop :=
  s.answersOk n ∧ s.answerAt n = .fail landed

/-- The invariant: the target's outputs follow its register while released (20_memory.md R37), the memory is in its
canonical form, `CFG` is legal (10_state.md R21), the registers stay in their ranges (R17), and the phase fits the code
and the position (R18, R19, R22; 60_exceptions.md R112). -/
structure Inv (s : State) : Prop where
  outputs : s.params.latchMode = .level → s.lines.latch = true → s.q = s.sr
  memory : Memory.wf s.m = true
  cfg : s.cfg.legal = true
  address : s.aCnt.toNat ≤ 16
  event : s.j.toNat ≤ 36
  idle : s.phase = .idle → s.code = codeNone ∧ s.aCnt = 0
  run : s.phase = .run → s.code = codeNone ∧ s.aCnt.toNat < 16 ∧ s.j.toNat < s.cfg.eventCount
  done : s.phase = .done → s.code = codeNone ∧ s.aCnt = 16 ∧ s.j = 0
  fault : s.phase = .fault → s.code = codeHardwareIOError ∨ s.code = codeConfigRefused

/-- The lines fit the event about to be performed: `WE_n` is 0 only between `SET(WE_n, 0)` and `SET(WE_n, 1)`,
LATCH is 1 only between `SET(LATCH, 1)` and `SET(LATCH, 0)` once SHBEGIN has been performed, and `CLK` is 1 only
between `SET(CLK, 1)` and `SET(CLK, 0)` (45_load_sequencer.md R98, 70_reset_and_hazards.md R135, R136, R137). -/
structure LinesFit (s : State) : Prop where
  writeEnable : s.lines.weN =
    !decide (s.j.toNat = 33 + s.cfg.offset ∨ s.j.toNat = 34 + s.cfg.offset)
  latch : 5 + s.cfg.offset ≤ s.j.toNat →
    s.lines.latch = decide (s.j.toNat = 30 + s.cfg.offset ∨ s.j.toNat = 31 + s.cfg.offset)
  clock : s.lines.clk =
    decide (7 + s.cfg.offset ≤ s.j.toNat ∧ s.j.toNat ≤ 28 + s.cfg.offset
      ∧ (s.j.toNat - (7 + s.cfg.offset)) % 3 = 0)

/-- A load that is about to perform its first event, with the lines as 45_load_sequencer.md R107 asks and no turn of
the host waiting. -/
structure LoadBegins (s : State) : Prop where
  phase : s.phase = .run
  code : s.code = codeNone
  address : s.aCnt = 0
  event : s.j = 0
  clock : s.lines.clk = false
  writeEnable : s.lines.weN = true
  turns : s.turns = []

/-- A SHIFTOUT that begins with these lines makes eight shifts: under RISING the clock must be low
(43_shift_controller.md R92, 70_reset_and_hazards.md R136). -/
def State.shiftsEight (s : State) : Prop := s.lines.clk = false ∨ s.params.shiftEdge = .falling

/-- Where the outputs are released they follow the register (20_memory.md R37). Every step keeps it (`Inv`). -/
def State.outputsFollow (s : State) : Prop :=
  s.params.latchMode = .level → s.lines.latch = true → s.q = s.sr

/-- The target is settled: what R37 and R38 ask for "after every event" holds already. There an event that changes no
line changes nothing of the target, as 20_memory.md R43 and 41_io_primitives.md R87 say. -/
def State.settled (s : State) : Prop :=
  s.outputsFollow ∧ (s.lines.weN = false → s.readCell s.cell = some s.q)

/-- The block's registers are unchanged. -/
def SameRegisters (s t : State) : Prop :=
  t.phase = s.phase ∧ t.aCnt = s.aCnt ∧ t.j = s.j ∧ t.w = s.w ∧ t.code = s.code ∧ t.cfg = s.cfg ∧ t.img = s.img

/-- The host's side and the parameters are unchanged. -/
def SameHost (s t : State) : Prop :=
  t.params = s.params ∧ t.turns = s.turns ∧ t.offer = s.offer ∧ t.reply = s.reply ∧ t.asm = s.asm

/-- The target devices are unchanged, every cell of the memory included. -/
def SameTarget (s t : State) : Prop :=
  t.sr = s.sr ∧ t.q = s.q ∧ ∀ b, t.readCell b = s.readCell b

/-- Every cell but `a` reads as before. -/
def SameCellsBut (a : Nat) (s t : State) : Prop := ∀ b, b ≠ a → t.readCell b = s.readCell b

/-- The memory after events that leave the address alone: with `WE_n = 1` every cell reads as before, and with
`WE_n = 0` the addressed cell holds `Q` and every other cell reads as before (20_memory.md R38). -/
def CommitsWhileEnabled (s t : State) : Prop :=
  SameCellsBut s.cell s t
    ∧ (s.lines.weN = true → t.readCell s.cell = s.readCell s.cell)
    ∧ (s.lines.weN = false → t.readCell s.cell = some t.q)

/-- The target after an event that changes no line: `SR` as it was, `Q` and the addressed cell as R37 and R38 say
"after every event", every other cell as it was; and all as it was where the target was settled. -/
def SettlesTarget (s t : State) : Prop :=
  t.sr = s.sr ∧ t.q = s.qSettled ∧ CommitsWhileEnabled s t ∧ (s.settled → SameTarget s t)

/-- The trace entries of a list of accepted events. -/
def accepted (c : Cfg) (es : List Prim) : List TraceEntry := es.map fun e => ⟨e.event c, true⟩

/-- The word the host programs into cell `a`, as it arrives there (45_load_sequencer.md R107). -/
def State.delivered (s : State) (a : Nat) : Byte :=
  deliver s.cfg.order s.params.firstBit (s.img.toList.getD a 0)

end Sys2Proof.Machine
end

