-- ==== Sys2Proof/Certificates/Slice0/Obligations.lean ====
section
/-! DEFINITION. The statements for the provers. "log n" is notes/assumptions/n.md. -/

open Sys2Proof Sys2Proof.Machine

/-! ## Encodings -/

/-- Every well-formed instruction is read back from its byte in its format (R49, R50, R52, R57). -/
def Obligations.DecodeOfEncodeIsTheInstruction : Prop :=
  ∀ i : Instr, i.wf = true → decode i.format (encode i) = .instr i

/-- A byte has one meaning in a format: what it decodes to is well formed, has that format and encodes to that
byte. -/
def Obligations.EncodeOfDecodeIsTheByte : Prop :=
  ∀ (f : Format) (b : Byte) (i : Instr), decode f b = .instr i → i.format = f ∧ encode i = b ∧ i.wf = true

/-- R58: the codes outside R57's table are exactly the listed ranges, and a decoder reports each as invalid. -/
def Obligations.ReservedCodesAreInvalid : Prop :=
  ∀ b : Byte, decode .seqOp b = .invalid (.reservedCode b) ↔
    (0x14 ≤ b.toNat ∧ b.toNat ≤ 0x1F) ∨ (0x31 ≤ b.toNat ∧ b.toNat ≤ 0x3F) ∨ (0x42 ≤ b.toNat ∧ b.toNat ≤ 0x4F)
      ∨ (0x51 ≤ b.toNat ∧ b.toNat ≤ 0x5F) ∨ (0x61 ≤ b.toNat ∧ b.toNat ≤ 0x6F)
      ∨ (0x71 ≤ b.toNat ∧ b.toNat ≤ 0x7F) ∨ (0x92 ≤ b.toNat ∧ b.toNat ≤ 0x9F)
      ∨ (0xA1 ≤ b.toNat ∧ b.toNat ≤ 0xAF) ∨ (0xB2 ≤ b.toNat ∧ b.toNat ≤ 0xBF)
      ∨ (0xC0 ≤ b.toNat ∧ b.toNat ≤ 0xFE)

/-- R51: no line of a listing assembles to a word in 0x90..0xDF, 0xE1..0xEF or 0xF1..0xFF, nor to one in 0x01..0x0F
but as a literal; and those first ranges are exactly the bytes that neither payload format decodes. -/
def Obligations.WordsTheAssemblerNeverProduces : Prop :=
  let outside := fun w : Byte =>
    (0x90 ≤ w.toNat ∧ w.toNat ≤ 0xDF) ∨ (0xE1 ≤ w.toNat ∧ w.toNat ≤ 0xEF) ∨ 0xF1 ≤ w.toNat
  (∀ b : Byte, (decode .sap1Word b).toOption = none ∧ (decode .sap1Data b).toOption = none ↔ outside b)
    ∧ ∀ (policy : ExtraTokenPolicy) (n : Nat) (line : List Char) (i : Instr) (h : HexCase),
        parseLine policy n line = .instr i →
        ∃ e, entryOf h i = some e ∧ ¬outside e.word
          ∧ (1 ≤ e.word.toNat → e.word.toNat ≤ 0x0F → i = .literal e.word)

/-- Words written out from the tables of R50, R52 and R57 (P1, S5, 42 R89, 45 R100). -/
def Obligations.WrittenWordsDecode : Prop :=
  decode .sap1Word 0x00 = .instr .nop
    ∧ decode .sap1Word 0x1E = .instr (.lda 0xE)
    ∧ decode .sap1Word 0x8F = .instr (.jz 0xF)
    ∧ decode .sap1Word 0xE0 = .instr .out
    ∧ decode .sap1Data 0x07 = .instr (.literal 7)
    ∧ decode .seqOp 0x0E = .instr (.setpin .weN false)
    ∧ decode .seqOp 0x12 = .instr (.wait .tWe)
    ∧ decode .seqOp 0x2A = .instr (.addrsel 0xA)
    ∧ decode .seqOp 0x41 = .instr (.shbit true)
    ∧ decode .seqOp 0x85 = .instr (.loadword 5)
    ∧ decode .seqOp 0x91 = .instr (.load .msbFirst)
    ∧ decode .seqOp 0xB0 = .instr (.shiftout .lsbFirst)
    ∧ decode .seqOp 0xFF = .instr .reset

/-! ## Turns -/

/-- A step whose turn issues a byte that decodes to an instruction is that instruction's meaning, in the state
without the turn. A byte that is no instruction of its format is refused by name (R58, R51). The one other exception
is an operation of the pin path issued beside the sequencer while a load runs, which is refused: the model's choice of
log 14 (R123). -/
def Obligations.StepRunsTheDecodedCode : Prop :=
  ∀ (s : State) (f : Format) (b : Byte) (rest : List Turn), s.turns = .code f b :: rest →
    (∀ i, decode f b = .instr i → ¬(s.phase = .run ∧ usesPinPath i = true) →
        step s = exec i { s with turns := rest })
      ∧ (∀ i, decode f b = .instr i → s.phase = .run ∧ usesPinPath i = true → step s = .refused .secondDriver)
      ∧ (∀ e, decode f b = .invalid e → step s = .refused (.undecodable e))

/-! ## The payload and the assembler -/

/-- R67 to R74: each mnemonic with an operand yields the entry of its text and its word, and changes nothing
else. -/
def Obligations.OperandMnemonicsYieldTheirEntries : Prop :=
  ∀ (x : Nibble) (s : State),
    (let yields := fun (i : Instr) (name : String) (base : Byte) =>
      exec i s = .next
        { s with
          asm :=
            { s.asm with
              entries := s.asm.entries
                ++ [⟨name ++ " 0x" ++ hexDigitText s.params.hexCase x, base ||| x.setWidth 8⟩] } }
    yields (.lda x) "LDA" 0x10 ∧ yields (.add x) "ADD" 0x20 ∧ yields (.sub x) "SUB" 0x30
      ∧ yields (.sta x) "STA" 0x40 ∧ yields (.ldi x) "LDI" 0x50 ∧ yields (.jmp x) "JMP" 0x60
      ∧ yields (.jc x) "JC" 0x70 ∧ yields (.jz x) "JZ" 0x80)

/-- R66, R75, R76, R77: NOP, OUT and HLT yield their entries, whose operand nibble is 0; a literal yields the entry
whose word is its value, with a text that no source gives (R79). None changes anything else. -/
def Obligations.BareMnemonicsAndLiteralsYieldTheirEntries : Prop :=
  ∀ (s : State) (v : Byte), v.toNat ≤ 15 →
    (let yields := fun (i : Instr) (e : Entry) =>
      exec i s = .next { s with asm := { s.asm with entries := s.asm.entries ++ [e] } }
    yields .nop ⟨"NOP 0x0", 0x00⟩ ∧ yields .out ⟨"OUT 0x0", 0xE0⟩ ∧ yields .hlt ⟨"HLT 0x0", 0xF0⟩
      ∧ ∃ text, yields (.literal v) ⟨text, v⟩)

/-- R85: of an instruction line's word, the high nibble is the mnemonic's opcode and the low nibble its operand; of
a literal line's word, 0 and the value. -/
def Obligations.WordGivesBackOpcodeAndOperand : Prop :=
  ∀ (h : HexCase) (x : Nibble) (v : Byte),
    (let gives := fun (i : Instr) (opcode operand : Byte) =>
      ∀ e, entryOf h i = some e → e.word >>> 4 = opcode ∧ e.word &&& 0x0F = operand
    gives .nop 0x0 0 ∧ gives (.lda x) 0x1 (x.setWidth 8) ∧ gives (.add x) 0x2 (x.setWidth 8)
      ∧ gives (.sub x) 0x3 (x.setWidth 8) ∧ gives (.sta x) 0x4 (x.setWidth 8) ∧ gives (.ldi x) 0x5 (x.setWidth 8)
      ∧ gives (.jmp x) 0x6 (x.setWidth 8) ∧ gives (.jc x) 0x7 (x.setWidth 8) ∧ gives (.jz x) 0x8 (x.setWidth 8)
      ∧ gives .out 0xE 0 ∧ gives .hlt 0xF 0 ∧ (v.toNat ≤ 15 → gives (.literal v) 0 v))

/-- R63: a token is accepted when it is exactly one hexadecimal digit, of either case, and then has its value. -/
def Obligations.OperandTokenIsOneHexDigit : Prop :=
  ∀ (t : List Char) (x : Nibble),
    hexToken t = some x ↔
      ∃ c, t = [c] ∧
        ((∃ k, k ≤ 9 ∧ c.toNat = '0'.toNat + k ∧ x.toNat = k)
          ∨ (∃ k, k ≤ 5 ∧ c.toNat = 'A'.toNat + k ∧ x.toNat = 10 + k)
          ∨ (∃ k, k ≤ 5 ∧ c.toNat = 'a'.toNat + k ∧ x.toNat = 10 + k))

/-- R61: a line is split on whitespace: leading whitespace is dropped, a word that ends at whitespace or at the end of
the line is its first token, and the rest is split in the same way. So the tokens hold the line's other characters in
order, none is empty or holds whitespace, and a line of whitespace alone is malformed. Which characters are whitespace
is the model's choice, log 16. -/
def Obligations.LineIsSplitOnWhitespace : Prop :=
  tokens [] = []
    ∧ (∀ c rest, isSpace c = true → tokens (c :: rest) = tokens rest)
    ∧ (∀ word rest, word ≠ [] → (∀ c ∈ word, isSpace c = false) → (∀ c ∈ rest.head?, isSpace c = true) →
        tokens (word ++ rest) = word :: tokens rest)
    ∧ (∀ line, (tokens line).flatten = line.filter (fun c => !isSpace c))
    ∧ (∀ line, ∀ t ∈ tokens line, t ≠ [] ∧ ∀ c ∈ t, isSpace c = false)
    ∧ (∀ policy n line, (∀ c ∈ line, isSpace c = true) → parseLine policy n line = .error (.malformedLine n))

/-- R62, R64, R65, and R63 and R77 with them: a line with a first token, read by its tokens. The first token is a
mnemonic when it is one of the 11 names. A mnemonic line that lacks its operand is malformed; tokens beyond those
needed are ignored after NOP, OUT and HLT, and elsewhere ignored or malformed by policy; a token that is no
hexadecimal digit is an unknown operand. The errors have the codes 1 and 2. -/
def Obligations.LineIsReadByItsTokens : Prop :=
  (∀ m i, bareMnemonic m = some i ↔
      (m = "NOP".toList ∧ i = .nop) ∨ (m = "OUT".toList ∧ i = .out) ∨ (m = "HLT".toList ∧ i = .hlt))
    ∧ (∀ m f, operandMnemonic m = some f ↔
      (m = "LDA".toList ∧ f = .lda) ∨ (m = "ADD".toList ∧ f = .add) ∨ (m = "SUB".toList ∧ f = .sub)
        ∨ (m = "STA".toList ∧ f = .sta) ∨ (m = "LDI".toList ∧ f = .ldi) ∨ (m = "JMP".toList ∧ f = .jmp)
        ∨ (m = "JC".toList ∧ f = .jc) ∨ (m = "JZ".toList ∧ f = .jz))
    ∧ (∀ n t, (AsmError.malformedLine n).code = some 1 ∧ (AsmError.unknownOperand n t).code = some 2)
    ∧ ∀ (policy : ExtraTokenPolicy) (n : Nat) (line m : List Char) (rest : List (List Char)),
      tokens line = m :: rest →
      (∀ i, bareMnemonic m = some i → parseLine policy n line = .instr i)
        ∧ (∀ f, operandMnemonic m = some f →
            (rest = [] → parseLine policy n line = .error (.malformedLine n))
              ∧ ∀ t extra, rest = t :: extra →
                (hexToken t = none → parseLine policy n line = .error (.unknownOperand n t))
                  ∧ ∀ x, hexToken t = some x →
                    parseLine policy n line
                      = if extra ≠ [] ∧ policy = .reject then .error (.malformedLine n) else .instr (f x))
        ∧ (bareMnemonic m = none → operandMnemonic m = none →
            (hexToken m = none → parseLine policy n line = .error (.unknownOperand n m))
              ∧ ∀ x, hexToken m = some x →
                parseLine policy n line
                  = if rest ≠ [] ∧ policy = .reject then .error (.malformedLine n)
                    else .instr (.literal (x.setWidth 8)))

/-- R60, R80, R83: a listing of at most 16 lines, each of which parses, assembles to an image of exactly 16 entries:
line `n` (from 1) gives entry `n - 1`, and entries `k..15` of a listing of `k` lines are `("0x00", 0)`. -/
def Obligations.ValidListingAssemblesToSixteenEntries : Prop :=
  ∀ (p : Params) (lines : List (List Char)), lines.length ≤ 16 →
    (∀ n line, lines[n]? = some line → ∃ i, parseLine p.extraTokens (n + 1) line = .instr i) →
    ∃ img, assemble p lines 16 = .image img
      ∧ img.length = 16
      ∧ (∀ n line i, lines[n]? = some line → parseLine p.extraTokens (n + 1) line = .instr i →
          img[n]? = entryOf p.hexCase i)
      ∧ (∀ n, lines.length ≤ n → n < 16 → img[n]? = some ⟨"0x00", 0⟩)

/-- R81: a listing of more than 16 lines yields no image; it is a CapacityOverflow (code 3) with its number of lines if
every line is valid, and the error of its first bad line otherwise. -/
def Obligations.LongListingOverflows : Prop :=
  ∀ (p : Params) (lines : List (List Char)), 16 < lines.length →
    (∀ img, assemble p lines 16 ≠ .image img)
      ∧ ((∀ n line, lines[n]? = some line → ∃ i, parseLine p.extraTokens (n + 1) line = .instr i) →
          assemble p lines 16 = .error (.capacityOverflow lines.length)
            ∧ (AsmError.capacityOverflow lines.length).code = some 3)
      ∧ (∀ n line e, lines[n]? = some line → parseLine p.extraTokens (n + 1) line = .error e →
          (∀ k l, k < n → lines[k]? = some l → ∃ i, parseLine p.extraTokens (k + 1) l = .instr i) →
          assemble p lines 16 = .error e)

/-- R82: the first error ends the function, whatever the lines after it are and however many. -/
def Obligations.FirstBadLineWins : Prop :=
  ∀ (p : Params) (lines : List (List Char)) (n : Nat) (line : List Char) (e : AsmError),
    lines[n]? = some line → parseLine p.extraTokens (n + 1) line = .error e →
    (∀ k l, k < n → lines[k]? = some l → ∃ i, parseLine p.extraTokens (k + 1) l = .instr i) →
    assemble p lines 16 = .error e

/-- The machine that takes a listing turn by turn ends as the pure function `assemble` says (R60): with the image
as the assembler's entries and its words on offer for LOAD, or with its error; the block, the lines and the target
are unchanged in every case, and after an error so is the offer (R118). -/
def Obligations.TurnsAssembleAsThePureFunction : Prop :=
  ∀ (s : State) (lines : List (List Char)) (rest : List Turn),
    s.turns = .beginListing 16 :: (lines.map Turn.line ++ .endListing :: rest) →
    ∃ t, Host.Core.run core (lines.length + 2) s = .next t
      ∧ t = { s with turns := rest, asm := t.asm, offer := t.offer }
      ∧ match assemble s.params lines 16 with
        | .image img =>
          t.asm = ⟨img, none⟩ ∧ t.offer = { s.offer with image := img.map fun e => e.word.toNat }
        | .error e => t.asm.error = some e ∧ t.offer = s.offer

/-! ## The pin primitives -/

/-- R86: an accepted SETPIN sets its line to its level, is recorded, and changes no other line, no register and
nothing of the host; it takes some time, possibly none (R13). -/
def Obligations.SetpinSetsItsLine : Prop :=
  ∀ (p : Line) (v : Bool) (s : State), s.answersOk 1 →
    ∃ t, exec (.setpin p v) s = .next t
      ∧ t.lines.get p = v ∧ (∀ p', p' ≠ p → t.lines.get p' = s.lines.get p')
      ∧ SameRegisters s t ∧ SameHost s t
      ∧ t.trace = s.trace ++ [⟨.set p v, true⟩] ∧ s.time ≤ t.time

/-- R34, R35: the target shifts at its edge of CLK, with DATA's level as the new bit, and at no other event. -/
def Obligations.ClockEdgeShiftsOneBit : Prop :=
  ∀ (p : Line) (v : Bool) (s : State), s.answersOk 1 →
    ∃ t, exec (.setpin p v) s = .next t
      ∧ (p ≠ .clk ∨ s.lines.clk = v ∨ v ≠ decide (s.params.shiftEdge = .rising) → t.sr = s.sr)
      ∧ (p = .clk ∧ s.lines.clk ≠ v ∧ v = decide (s.params.shiftEdge = .rising) →
          (s.params.firstBit = .bit0 →
            t.sr.getLsbD 7 = s.lines.data ∧ ∀ i, i < 7 → t.sr.getLsbD i = s.sr.getLsbD (i + 1))
          ∧ (s.params.firstBit = .bit7 →
            t.sr.getLsbD 0 = s.lines.data ∧ ∀ i, i < 7 → t.sr.getLsbD (i + 1) = s.sr.getLsbD i))

/-- R37: in LEVEL mode `Q` is `SR` after every SETPIN while LATCH is high and is frozen while it is low; in EDGE mode it
takes `SR` when LATCH rises and at no other event. R33, R43: where the outputs follow already, a change of an address
line or of DATA, or a SETPIN to the level its line holds, leaves `Q` alone; that R37 holds at these where the outputs do
not follow is the model's reading, log 10. -/
def Obligations.LatchReleasesAndFreezes : Prop :=
  ∀ (p : Line) (v : Bool) (s : State), s.answersOk 1 →
    ∃ t, exec (.setpin p v) s = .next t
      ∧ (s.params.latchMode = .level → t.q = if t.lines.latch = true then t.sr else s.q)
      ∧ (s.params.latchMode = .edge →
          t.q = if s.lines.latch = false ∧ t.lines.latch = true then t.sr else s.q)
      ∧ (s.outputsFollow → s.lines.get p = v ∨ isAddressLine p = true ∨ p = .data → t.q = s.q)

/-- R38: after a SETPIN that does not move the address, the addressed cell holds `Q` if `WE_n = 0` and the memory is
unchanged if `WE_n = 1`; every other cell is unchanged in both cases. R43: where the target is settled, a SETPIN to the
level its line holds has no effect on it; that R38 holds at one where it is not is the model's reading, log 10. -/
def Obligations.WriteEnableCommitsTheLatchedByte : Prop :=
  ∀ (p : Line) (v : Bool) (s : State), s.answersOk 1 → s.lines.get p = v ∨ isAddressLine p = false →
    ∃ t, exec (.setpin p v) s = .next t
      ∧ t.cell = s.cell ∧ SameCellsBut t.cell s t
      ∧ (t.lines.weN = false → t.readCell t.cell = some t.q)
      ∧ (t.lines.weN = true → t.readCell t.cell = s.readCell t.cell)
      ∧ (s.settled → s.lines.get p = v → SameTarget s t)

/-- R39, R33: a SETPIN that moves the address while `WE_n = 0` may change the two cells it moves between, and no other;
with `WE_n = 1` it changes none. It changes `SR` never, and `Q` never where the outputs follow (log 10). -/
def Obligations.AddressMoveTouchesTwoCells : Prop :=
  ∀ (p : Line) (v : Bool) (s : State), s.answersOk 1 → isAddressLine p = true → s.lines.get p ≠ v →
    ∃ t, exec (.setpin p v) s = .next t
      ∧ t.cell ≠ s.cell ∧ t.sr = s.sr ∧ (s.outputsFollow → t.q = s.q)
      ∧ (∀ b, b ≠ s.cell → b ≠ t.cell → t.readCell b = s.readCell b)
      ∧ (s.lines.weN = true → ∀ b, t.readCell b = s.readCell b)

/-- R87: an accepted WAIT lasts at least its configured delay and changes no line, no register and, where the target is
settled, nothing of the target; the event records the delay. That R37 and R38, "after every event", hold after a WAIT
where the target is not settled is the model's reading, log 10. -/
def Obligations.WaitLastsAtLeastItsDelay : Prop :=
  ∀ (d : DelaySel) (s : State), s.answersOk 1 →
    ∃ t, exec (.wait d) s = .next t
      ∧ s.time + s.cfg.delay d ≤ t.time
      ∧ t.trace = s.trace ++ [⟨.wait (s.cfg.delay d), true⟩]
      ∧ t.lines = s.lines ∧ SettlesTarget s t ∧ SameRegisters s t ∧ SameHost s t

/-- R88, R40, R113, R115, R121: a rejected SETPIN raises HardwareIOError at the present position, unless a fault stands
already, and is recorded as failed; its line holds the new level or the old one, and the target reacts to that level. -/
def Obligations.RejectedSetpinFaults : Prop :=
  ∀ (p : Line) (v landed : Bool) (s : State), s.rejectsFirst 0 landed →
    ∃ t level, exec (.setpin p v) s = .next t
      ∧ (level = v ∨ level = s.lines.get p)
      ∧ t.lines.get p = level ∧ (∀ p', p' ≠ p → t.lines.get p' = s.lines.get p')
      ∧ t.sr = s.srAfter p level ∧ t.q = s.qAfter p level ∧ t.m = s.mAfter p level
      ∧ FaultsHere s t ∧ t.w = s.w ∧ t.cfg = s.cfg ∧ t.img = s.img
      ∧ t.trace = s.trace ++ [⟨.set p v, false⟩] ∧ SameHost s t

/-- R88, R40, R121: a rejected WAIT raises HardwareIOError, unless a fault stands already, and changes no line and,
where the target is settled, nothing of the target (log 10). -/
def Obligations.RejectedWaitFaults : Prop :=
  ∀ (d : DelaySel) (landed : Bool) (s : State), s.rejectsFirst 0 landed →
    ∃ t, exec (.wait d) s = .next t
      ∧ FaultsHere s t ∧ t.w = s.w ∧ t.cfg = s.cfg ∧ t.img = s.img
      ∧ t.lines = s.lines ∧ SettlesTarget s t ∧ SameHost s t
      ∧ t.trace = s.trace ++ [⟨.wait (s.cfg.delay d), false⟩]

/-! ## The composite operations -/

/-- R89, R55, R33: ADDRSEL presents the address, `A_i = a[i]`, drives no other line, leaves `SR` alone, and `Q` where the
outputs follow (log 10), and, with `WE_n = 1`, changes no cell; it performs four SETs, and a WAIT if `T_ADDR > 0`. -/
def Obligations.AddrselPresentsTheAddress : Prop :=
  ∀ (a : Nibble) (s : State), s.answersOk (4 + s.cfg.offset) →
    ∃ t, exec (.addrsel a) s = .next t
      ∧ t.lines = { s.lines with a0 := a[0], a1 := a[1], a2 := a[2], a3 := a[3] }
      ∧ t.cell = a.toNat
      ∧ t.sr = s.sr ∧ t.q = s.qSettled ∧ (s.outputsFollow → t.q = s.q)
      ∧ (s.lines.weN = true → ∀ b, t.readCell b = s.readCell b)
      ∧ t.trace = s.trace
          ++ [⟨.set .a0 a[0], true⟩, ⟨.set .a1 a[1], true⟩, ⟨.set .a2 a[2], true⟩, ⟨.set .a3 a[3], true⟩]
          ++ (if s.cfg.tAddr = 0 then [] else [⟨.wait s.cfg.tAddr.toNat, true⟩])
      ∧ s.time + s.cfg.tAddr.toNat ≤ t.time
      ∧ SameRegisters s t ∧ SameHost s t

/-- R89, R90, R88: an ADDRSEL whose event for line `k` is rejected leaves lines `0..k-1` at the new address's bits and
lines `k+1..3` at the old one's. What it makes of the fault's registers outside a load is the model's reading,
log 13. -/
def Obligations.AddrselStopsAtTheRejectedLine : Prop :=
  ∀ (a : Nibble) (k : Nat) (landed : Bool) (s : State), k < 4 → s.rejectsFirst k landed →
    ∃ t, exec (.addrsel a) s = .next t
      ∧ FaultsHere s t
      ∧ (∀ i, i < k → t.lines.address.getLsbD i = a.getLsbD i)
      ∧ (t.lines.address.getLsbD k = if landed then a.getLsbD k else s.lines.address.getLsbD k)
      ∧ (∀ i, k < i → t.lines.address.getLsbD i = s.lines.address.getLsbD i)
      ∧ (s.lines.weN = true → ∀ b, t.readCell b = s.readCell b)
      ∧ t.trace.length = s.trace.length + k + 1

/-- R91: SHBEGIN pulls LATCH low, so `Q` is frozen; where LATCH is low already, and the target settled (log 10), "the
event changes nothing but is still performed and recorded". -/
def Obligations.ShbeginFreezesTheOutputs : Prop :=
  ∀ s : State, s.answersOk 1 →
    ∃ t, exec .shbegin s = .next t
      ∧ t.lines = { s.lines with latch := false }
      ∧ t.sr = s.sr ∧ t.q = s.q
      ∧ CommitsWhileEnabled s t
      ∧ (s.settled → s.lines.latch = false → SameTarget s t)
      ∧ t.trace = s.trace ++ [⟨.set .latch false, true⟩]
      ∧ SameRegisters s t ∧ SameHost s t

/-- R92: SHBIT presents the bit and pulses the clock: the target shifts once, unless CLK was high already under
RISING, when the rise makes no edge. -/
def Obligations.ShbitShiftsOneBit : Prop :=
  ∀ (b : Bool) (s : State), s.answersOk 3 →
    ∃ t, exec (.shbit b) s = .next t
      ∧ t.lines = { s.lines with data := b, clk := false }
      ∧ (s.shiftsEight → t.sr = shiftin s.params.firstBit s.sr b)
      ∧ (¬s.shiftsEight → t.sr = s.sr)
      ∧ t.q = (if s.params.latchMode = .level ∧ s.lines.latch = true then t.sr else s.q)
      ∧ CommitsWhileEnabled s t
      ∧ t.trace = s.trace ++ [⟨.set .data b, true⟩, ⟨.set .clk true, true⟩, ⟨.set .clk false, true⟩]
      ∧ SameRegisters s t ∧ SameHost s t

/-- R94: LATCH transfers the register to its outputs and freezes them again, holding LATCH high for at least
`T_LATCH`; in EDGE mode a LATCH line that was high already makes no edge. -/
def Obligations.LatchTransfersTheRegister : Prop :=
  ∀ s : State, s.answersOk 3 →
    ∃ t, exec .latch s = .next t
      ∧ t.lines = { s.lines with latch := false }
      ∧ t.sr = s.sr
      ∧ (s.params.latchMode = .level ∨ s.lines.latch = false → t.q = s.sr)
      ∧ (s.params.latchMode = .edge ∧ s.lines.latch = true → t.q = s.q)
      ∧ CommitsWhileEnabled s t
      ∧ t.trace = s.trace
          ++ [⟨.set .latch true, true⟩, ⟨.wait s.cfg.tLatch.toNat, true⟩, ⟨.set .latch false, true⟩]
      ∧ s.time + s.cfg.tLatch.toNat ≤ t.time
      ∧ SameRegisters s t ∧ SameHost s t

/-- R93: SHIFTOUT leaves the delivered word in `SR` and `Q`, whatever they held before (R36), in 28 events; the
order is the one its code names (log 19). -/
def Obligations.ShiftoutDeliversTheWord : Prop :=
  ∀ (o : Order) (s : State), s.answersOk 28 → s.shiftsEight →
    ∃ t, exec (.shiftout o) s = .next t
      ∧ t.sr = deliver o s.params.firstBit s.w ∧ t.q = deliver o s.params.firstBit s.w
      ∧ t.lines = { s.lines with data := (frame s.w o).getLastD false, clk := false, latch := false }
      ∧ CommitsWhileEnabled s t
      ∧ t.trace = s.trace ++ accepted s.cfg (shiftoutPrims s.w o) ∧ (shiftoutPrims s.w o).length = 28
      ∧ s.time + s.cfg.tLatch.toNat ≤ t.time
      ∧ SameRegisters s t ∧ SameHost s t

/-- R133 (and the corner case of R92): under RISING a SHIFTOUT that begins with CLK high shifts seven times, so the
first bit of the frame is lost and one old bit of `SR` stays. -/
def Obligations.ClockHighAtTheStartLosesABit : Prop :=
  ∀ (o : Order) (s : State), s.answersOk 28 → s.params.shiftEdge = .rising → s.lines.clk = true →
    ∃ t, exec (.shiftout o) s = .next t
      ∧ t.q = t.sr
      ∧ (s.params.firstBit = .bit0 →
          t.sr.getLsbD 0 = s.sr.getLsbD 7
            ∧ ∀ i, 1 ≤ i → i < 8 → t.sr.getLsbD i = (deliver o .bit0 s.w).getLsbD i)
      ∧ (s.params.firstBit = .bit7 →
          t.sr.getLsbD 7 = s.sr.getLsbD 0
            ∧ ∀ i, i < 7 → t.sr.getLsbD i = (deliver o .bit7 s.w).getLsbD i)

/-- R93, R132, R88: a SHIFTOUT rejected at event `k` raises HardwareIOError. From the fall of LATCH until its rise `Q` is
as it was, and from then on it and `SR` are the delivered word; with `WE_n = 1` no cell changes. Within the shift LATCH
is low and nothing is said of `SR`, nor where the failed event 25 left LATCH high in EDGE mode; that `SR` is the word
where it did so in LEVEL mode is log 11's reading. What it makes of the fault's registers outside a load is the model's
reading, log 13. -/
def Obligations.RejectedShiftoutStops : Prop :=
  ∀ (o : Order) (k : Nat) (landed : Bool) (s : State), k < 28 → s.rejectsFirst k landed →
    ∃ t, exec (.shiftout o) s = .next t
      ∧ FaultsHere s t ∧ t.w = s.w
      ∧ (k = 0 → t.sr = s.sr ∧ t.q = if t.lines.latch = true then s.qSettled else s.q)
      ∧ (1 ≤ k → k < 25 ∨ (k = 25 ∧ landed = false) → t.q = s.q)
      ∧ (25 < k ∨ (k = 25 ∧ landed = true) → s.shiftsEight →
          t.q = deliver o s.params.firstBit s.w
            ∧ (25 < k ∨ s.params.latchMode = .level → t.sr = deliver o s.params.firstBit s.w))
      ∧ (1 ≤ k → k < 25 → t.lines.latch = false)
      ∧ (s.lines.weN = true → ∀ b, t.readCell b = s.readCell b)
      ∧ t.trace.length = s.trace.length + k + 1

/-- R96: WRPULSE commits the latched byte into the addressed cell and into no other, holding the write enable for at
least `T_WE`, and leaves it inactive. That it commits where `WE_n` was 0 already is R38, "after every event" (log 10). -/
def Obligations.WrpulseCommitsTheByte : Prop :=
  ∀ s : State, s.answersOk 3 →
    ∃ t, exec .wrpulse s = .next t
      ∧ t.lines = { s.lines with weN := true }
      ∧ t.sr = s.sr ∧ t.q = s.qSettled ∧ (s.outputsFollow → t.q = s.q)
      ∧ t.readCell s.cell = some t.q ∧ SameCellsBut s.cell s t
      ∧ t.trace = s.trace
          ++ [⟨.set .weN false, true⟩, ⟨.wait s.cfg.tWe.toNat, true⟩, ⟨.set .weN true, true⟩]
      ∧ s.time + s.cfg.tWe.toNat ≤ t.time
      ∧ SameRegisters s t ∧ SameHost s t

/-- R97, R87: GAP waits at least `T_GAP` and changes no line, no register and, where the target is settled, nothing of
the target (log 10). -/
def Obligations.GapWaits : Prop :=
  ∀ s : State, s.answersOk 1 →
    ∃ t, exec .gap s = .next t
      ∧ s.time + s.cfg.tGap.toNat ≤ t.time
      ∧ t.trace = s.trace ++ [⟨.wait s.cfg.tGap.toNat, true⟩]
      ∧ t.lines = s.lines ∧ SettlesTarget s t ∧ SameRegisters s t ∧ SameHost s t

/-! ## The event list and LOADWORD -/

/-- R98: the length of an event list is `36 + o`, and event `j` is the table's. -/
def Obligations.EventListIsTheTable : Prop :=
  ∀ (a : Nibble) (w : Byte) (c : Cfg),
    (let o := if c.tAddr = 0 then 0 else 1
    let e := eventList a w c
    e.length = 36 + o
      ∧ e[0]? = some (.set .a0 (a.getLsbD 0)) ∧ e[1]? = some (.set .a1 (a.getLsbD 1))
      ∧ e[2]? = some (.set .a2 (a.getLsbD 2)) ∧ e[3]? = some (.set .a3 (a.getLsbD 3))
      ∧ (o = 1 → e[4]? = some (.wait .tAddr))
      ∧ e[4 + o]? = some (.set .latch false)
      ∧ (∀ k, k < 8 →
          e[5 + o + 3 * k]? = some
              (.set .data (match c.order with | .lsbFirst => w.getLsbD k | .msbFirst => w.getLsbD (7 - k)))
            ∧ e[6 + o + 3 * k]? = some (.set .clk true) ∧ e[7 + o + 3 * k]? = some (.set .clk false))
      ∧ e[29 + o]? = some (.set .latch true) ∧ e[30 + o]? = some (.wait .tLatch)
      ∧ e[31 + o]? = some (.set .latch false) ∧ e[32 + o]? = some (.set .weN false)
      ∧ e[33 + o]? = some (.wait .tWe) ∧ e[34 + o]? = some (.set .weN true)
      ∧ e[35 + o]? = some (.wait .tGap))

/-- R99: a LOADWORD with every event accepted, from any lines, reads its word, performs the whole event list and
changes no register but `W` and `J`. In DONE and FAULT `J` is the load's own and stays (R22); that it stands at the
last index otherwise is log 12's reading. -/
def Obligations.LoadwordPerformsItsEventList : Prop :=
  ∀ (a : Nibble) (s : State), s.answersOk s.cfg.eventCount →
    ∃ t, exec (.loadword a) s = .next t
      ∧ t.w = imgRead s.img a
      ∧ (s.phase = .done ∨ s.phase = .fault → t.j = s.j)
      ∧ (s.phase ≠ .done → s.phase ≠ .fault → t.j.toNat = s.cfg.eventCount - 1)
      ∧ t.phase = s.phase ∧ t.aCnt = s.aCnt ∧ t.code = s.code ∧ t.cfg = s.cfg ∧ t.img = s.img
      ∧ t.trace = s.trace ++ accepted s.cfg (eventList a (imgRead s.img a) s.cfg)
      ∧ s.time + (s.cfg.tAddr.toNat + s.cfg.tLatch.toNat + s.cfg.tWe.toNat + s.cfg.tGap.toNat) ≤ t.time
      ∧ SameHost s t

/-- R99: with no failure, and the write enable inactive and the clock ready at the start, the cell ends as the
delivered word and no other cell changes, whatever `SR`, `Q` and LATCH were. -/
def Obligations.LoadwordProgramsItsCell : Prop :=
  ∀ (a : Nibble) (s : State), s.answersOk s.cfg.eventCount → s.lines.weN = true → s.shiftsEight →
    ∃ t, exec (.loadword a) s = .next t
      ∧ t.readCell a.toNat = some (deliver s.cfg.order s.params.firstBit (imgRead s.img a))
      ∧ SameCellsBut a.toNat s t
      ∧ t.q = deliver s.cfg.order s.params.firstBit (imgRead s.img a) ∧ t.sr = t.q
      ∧ t.lines.address = a ∧ t.lines.clk = false ∧ t.lines.latch = false ∧ t.lines.weN = true

/-- R99, R115, R121: a LOADWORD rejected at event `k` has "`A_CNT = a` and `J` the failing event's index", unless a
fault stands already, the word in `W`, and exactly the events before it accepted. -/
def Obligations.RejectedLoadwordRecordsItsPosition : Prop :=
  ∀ (a : Nibble) (k : Nat) (landed : Bool) (s : State), k < s.cfg.eventCount → s.rejectsFirst k landed →
    ∃ t e, exec (.loadword a) s = .next t
      ∧ (eventList a (imgRead s.img a) s.cfg)[k]? = some e
      ∧ t.phase = .fault ∧ t.w = imgRead s.img a
      ∧ (s.phase ≠ .fault → t.code = 4 ∧ t.aCnt.toNat = a.toNat ∧ t.j.toNat = k)
      ∧ (s.phase = .fault → t.code = s.code ∧ t.aCnt = s.aCnt ∧ t.j = s.j)
      ∧ t.cfg = s.cfg ∧ t.img = s.img
      ∧ t.trace = s.trace ++ accepted s.cfg ((eventList a (imgRead s.img a) s.cfg).take k)
          ++ [⟨e.event s.cfg, false⟩]
      ∧ SameHost s t

/-! ## The host commands -/

/-- R101: the bounds of a legal LOAD. -/
def Obligations.LegalLoadBounds : Prop :=
  ∀ d : LoadData, d.legal = true ↔
    d.image.length = 16 ∧ (∀ w ∈ d.image, w ≤ 255)
      ∧ d.tAddr ≤ 65535 ∧ (10 ≤ d.tLatch ∧ d.tLatch ≤ 65535) ∧ (200 ≤ d.tWe ∧ d.tWe ≤ 65535)
      ∧ (100 ≤ d.tGap ∧ d.tGap ≤ 65535)

/-- R100: a legal LOAD outside RUN starts the load at address 0 with the delays, the order and the 16 words given,
and changes neither the lines nor the target. -/
def Obligations.LoadStartsAtAddressZero : Prop :=
  ∀ (o : Order) (s : State), s.phase ≠ .run → s.offer.legal = true →
    ∃ t, exec (.load o) s = .next t
      ∧ t.phase = .run ∧ t.code = 0 ∧ t.aCnt = 0 ∧ t.j = 0 ∧ t.w = s.w
      ∧ t.cfg.order = o ∧ t.cfg.tAddr.toNat = s.offer.tAddr ∧ t.cfg.tLatch.toNat = s.offer.tLatch
      ∧ t.cfg.tWe.toNat = s.offer.tWe ∧ t.cfg.tGap.toNat = s.offer.tGap
      ∧ t.img.toList.map (fun w => w.toNat) = s.offer.image
      ∧ t.lines = s.lines ∧ SameTarget s t ∧ t.trace = s.trace ∧ t.time = s.time ∧ SameHost s t

/-- R114: a LOAD whose data are illegal, outside RUN, raises ConfigRefused and changes nothing but the fault's own
registers. -/
def Obligations.IllegalLoadIsRefused : Prop :=
  ∀ (o : Order) (s : State), s.phase ≠ .run → s.offer.legal = false →
    exec (.load o) s = .next { s with phase := .fault, code := 5, aCnt := 0, j := 0 }

/-- R104, R117, R119: a LOAD while a load runs returns Busy, code 6, legal or not; it performs no event and changes
no state of the block, `CODE` included. -/
def Obligations.LoadWhileRunningIsBusy : Prop :=
  ∀ (o : Order) (s : State), s.phase = .run →
    exec (.load o) s = .next { s with reply := some .busy } ∧ Reply.busy.code = some 6

/-- R105, R22: READ_STATUS, in any phase, returns the status word, with each field at its bits and bit 15 zero, and
changes no state and performs no event; in DONE, from a state that meets the invariant, the word is `PHASE = DONE` and
zeros. -/
def Obligations.ReadStatusReturnsTheFields : Prop :=
  ∀ s : State, ∃ w : BitVec 16,
    exec .readStatus s = .next { s with reply := some (.status w) }
      ∧ w.extractLsb' 0 2 = s.phase.bits ∧ w.extractLsb' 2 3 = s.code
      ∧ w.extractLsb' 5 4 = s.aCnt.extractLsb' 0 4 ∧ w.extractLsb' 9 6 = s.j ∧ w.getLsbD 15 = false
      ∧ (Inv s → s.phase = .done → w = 0x0002)

/-- R30: after RESET every register, every line and every ghost has its reset value, from any state. -/
def Obligations.ResetSetsEveryRegister : Prop :=
  ∀ s : State, ∃ t, exec .reset s = .next t
    ∧ t.phase = .idle ∧ t.aCnt = 0 ∧ t.j = 0 ∧ t.w = 0x00 ∧ t.code = 0
    ∧ t.cfg.order = .lsbFirst ∧ t.cfg.tAddr = 0 ∧ t.cfg.tLatch = 10 ∧ t.cfg.tWe = 200 ∧ t.cfg.tGap = 100
    ∧ t.lines.weN = true ∧ t.lines.latch = false ∧ t.lines.clk = false ∧ t.lines.data = false
    ∧ t.lines.a3 = false ∧ t.lines.a2 = false ∧ t.lines.a1 = false ∧ t.lines.a0 = false
    ∧ t.trace = [] ∧ t.time = 0 ∧ t.statusWord = 0x0000 ∧ SameHost s t

/-- R130, R131: RESET changes no cell of the target memory, from any lines; `Q` is left alone where the outputs follow,
and else takes `SR` at the first drive (R37, log 10); and `SR` is left alone unless a load within a shift is abandoned
(R132) or the drive of CLK is an edge of the target. -/
def Obligations.ResetLeavesTheTarget : Prop :=
  ∀ s : State, ∃ t, exec .reset s = .next t
    ∧ (∀ b, t.readCell b = s.readCell b)
    ∧ t.q = s.qSettled ∧ (s.outputsFollow → t.q = s.q)
    ∧ (¬(s.phase = .run ∧ s.cfg.aborts s.j.toNat = true) →
        t.sr = if s.params.shiftEdge = .falling ∧ s.lines.clk = true then
            shiftin s.params.firstBit s.sr s.lines.data
          else s.sr)

/-- R95, R119, R130: an operation issued by its code, with RESET after its first `k` events: those events are complete,
each with the target's reaction, no further event runs, and the block and its lines have their reset values. A
SHIFTOUT stopped within its shift leaves `Q` and, with `WE_n = 1`, every cell as before (R132). -/
def Obligations.ResetStopsAnOperationBetweenEvents : Prop :=
  ∀ (s : State) (f : Format) (b : Byte) (k : Nat) (rest : List Turn) (i : Instr),
    s.turns = .codeThenReset f b k :: rest → decode f b = .instr i → usesPinPath i = true → s.phase ≠ .run →
    s.answersOk k →
    (let u := ({ s with turns := rest } : State).acceptAll ((opEvents s i).take k)
    ∃ t, step s = .next t
      ∧ t.phase = .idle ∧ t.aCnt = 0 ∧ t.j = 0 ∧ t.w = 0x00 ∧ t.code = 0 ∧ t.cfg = .default ∧ t.lines = .reset
      ∧ t.trace = [] ∧ t.time = 0
      ∧ (∀ c, t.readCell c = u.readCell c) ∧ t.q = u.qSettled
      ∧ (opAborts s.cfg k i = false →
          t.sr = if s.params.shiftEdge = .falling ∧ u.lines.clk = true then
              shiftin s.params.firstBit u.sr u.lines.data
            else u.sr)
      ∧ (∀ o, i = .shiftout o → 1 ≤ k → k ≤ 25 →
          t.q = s.q ∧ (s.lines.weN = true → ∀ c, t.readCell c = s.readCell c))
      ∧ SameHost { s with turns := rest } t)

/-! ## The sequencer -/

/-- R102, R103: in RUN, with an event accepted, the sequencer performs event `J` of the list of `A_CNT`, whose word
it reads from the image at `J = 0`, and moves its position on: to the next event, to the next address, or to
DONE. -/
def Obligations.SequencerPerformsOneEvent : Prop :=
  ∀ s : State, s.turns = [] → s.phase = .run → s.aCnt.toNat < 16 → s.j.toNat < s.cfg.eventCount → s.answersOk 1 →
    ∃ t e, step s = .next t
      ∧ t.w = (if s.j = 0 then s.img.toList.getD s.aCnt.toNat 0 else s.w)
      ∧ (eventList (s.aCnt.setWidth 4) t.w s.cfg)[s.j.toNat]? = some e
      ∧ t.trace = s.trace ++ [⟨e.event s.cfg, true⟩]
      ∧ (s.j.toNat + 1 < s.cfg.eventCount →
          t.j.toNat = s.j.toNat + 1 ∧ t.aCnt = s.aCnt ∧ t.phase = .run)
      ∧ (s.j.toNat + 1 = s.cfg.eventCount →
          t.j = 0 ∧ t.aCnt.toNat = s.aCnt.toNat + 1 ∧ t.phase = if s.aCnt = 15 then .done else .run)
      ∧ (∀ d, e = .wait d → t.lines = s.lines ∧ SettlesTarget s t ∧ s.time + s.cfg.delay d ≤ t.time)
      ∧ (∀ p v, e = .set p v → t.lines = s.lines.set p v
          ∧ t.sr = s.srAfter p v ∧ t.q = s.qAfter p v ∧ t.m = s.mAfter p v)
      ∧ t.code = s.code ∧ t.cfg = s.cfg ∧ t.img = s.img ∧ SameHost s t

/-- R113, R115, R40: in RUN, with the event rejected, the load ends in FAULT with code 4 and its position kept; the event
is recorded as failed and is the last. A failed SET leaves its line at either level and the target reacts to it; a
failed WAIT changes no line and nothing of a settled target (log 10). `SR` is as the target left it but where a shift is
aborted and the outputs are not released (R132, log 11); where LATCH is low there, `Q` is unchanged. -/
def Obligations.SequencerStopsAtARejectedEvent : Prop :=
  ∀ (landed : Bool) (s : State), s.turns = [] → s.phase = .run → s.aCnt.toNat < 16 →
    s.j.toNat < s.cfg.eventCount → s.rejectsFirst 0 landed →
    ∃ t e, step s = .next t
      ∧ t.w = (if s.j = 0 then s.img.toList.getD s.aCnt.toNat 0 else s.w)
      ∧ (eventList (s.aCnt.setWidth 4) t.w s.cfg)[s.j.toNat]? = some e
      ∧ t.phase = .fault ∧ t.code = 4 ∧ t.aCnt = s.aCnt ∧ t.j = s.j ∧ t.cfg = s.cfg ∧ t.img = s.img
      ∧ t.trace = s.trace ++ [⟨e.event s.cfg, false⟩]
      ∧ (∀ d, e = .wait d →
          t.lines = s.lines ∧ t.q = s.qSettled ∧ t.m = s.mSettled
            ∧ (s.settled → t.q = s.q ∧ ∀ b, t.readCell b = s.readCell b)
            ∧ (s.cfg.aborts s.j.toNat = false → t.sr = s.sr))
      ∧ (∀ p v, e = .set p v →
          ∃ level, (level = v ∨ level = s.lines.get p) ∧ t.lines = s.lines.set p level
            ∧ t.q = s.qAfter p level ∧ t.m = s.mAfter p level
            ∧ (s.cfg.aborts s.j.toNat = false ∨ t.released → t.sr = s.srAfter p level))
      ∧ (s.cfg.aborts s.j.toNat = true → t.lines.latch = false → t.q = s.q)
      ∧ SameHost s t
      ∧ step t = .next t

/-- R107, R108: a load that begins with `CLK = 0` and `WE_n = 1` and whose every event is accepted ends in DONE with
every cell holding its delivered word, `SR` and `Q` the last one, and the lines of address 15, whatever `SR`, `Q`,
`M` and LATCH held before and under every choice of shift edge, wiring and latch mode. -/
def Obligations.LoadDeliversTheImage : Prop :=
  ∀ s : State, LoadBegins s → s.answersOk (16 * s.cfg.eventCount) →
    ∃ t, Host.Core.run core (16 * s.cfg.eventCount) s = .next t
      ∧ t.phase = .done ∧ t.code = 0 ∧ t.aCnt.toNat = 16 ∧ t.j = 0 ∧ t.w = imgRead s.img 15
      ∧ (∀ a, a < 16 → t.readCell a = some (s.delivered a))
      ∧ t.sr = s.delivered 15 ∧ t.q = s.delivered 15
      ∧ t.lines.address = 15 ∧ t.lines.data = (frame (imgRead s.img 15) s.cfg.order).getLastD false
      ∧ t.lines.clk = false ∧ t.lines.latch = false ∧ t.lines.weN = true
      ∧ t.cfg = s.cfg ∧ t.img = s.img ∧ SameHost s t

/-- R106, R110, R144: the trace of such a load is the event lists of addresses 0 to 15 in ascending order, each with
the word of its address, every event accepted: 528 SETs and 48 WAITs, or 64 WAITs if `T_ADDR > 0`; and the load lasts
at least `16 × (T_ADDR + T_LATCH + T_WE + T_GAP)` ms. -/
def Obligations.LoadTraceIsTheSixteenEventLists : Prop :=
  ∀ s : State, LoadBegins s → s.answersOk (16 * s.cfg.eventCount) →
    ∃ t events, Host.Core.run core (16 * s.cfg.eventCount) s = .next t
      ∧ events = (List.range 16).flatMap
          (fun a => eventList (BitVec.ofNat 4 a) (s.img.toList.getD a 0) s.cfg)
      ∧ t.trace = s.trace ++ accepted s.cfg events
      ∧ (events.filter fun e => match e with | .set _ _ => true | .wait _ => false).length = 528
      ∧ (events.filter fun e => match e with | .set _ _ => false | .wait _ => true).length
          = (if s.cfg.tAddr = 0 then 48 else 64)
      ∧ s.time + 16 * (s.cfg.tAddr.toNat + s.cfg.tLatch.toNat + s.cfg.tWe.toNat + s.cfg.tGap.toNat) ≤ t.time

/-- R115, R116: a load whose first rejected event is number `n` stops in FAULT at address `n / (36 + o)`, event
`j = n mod (36 + o)`. The cells before it hold their delivered words and the cells after it are unchanged; its own
cell is unchanged before the write enable, is as the rejected `SET(WE_n, 0)` left the line, or holds its delivered
word. -/
def Obligations.FaultLeavesPartialProgramming : Prop :=
  ∀ (s : State) (n : Nat) (landed : Bool),
    LoadBegins s → n < 16 * s.cfg.eventCount → s.rejectsFirst n landed →
    (let a := n / s.cfg.eventCount
    let j := n % s.cfg.eventCount
    let o := s.cfg.offset
    ∃ t, Host.Core.run core (n + 1) s = .next t
      ∧ t.phase = .fault ∧ t.code = 4 ∧ t.aCnt.toNat = a ∧ t.j.toNat = j ∧ t.w = s.img.toList.getD a 0
      ∧ (∀ b, b < a → t.readCell b = some (s.delivered b))
      ∧ (∀ b, a < b → t.readCell b = s.readCell b)
      ∧ (j < 32 + o → t.readCell a = s.readCell a)
      ∧ (j = 32 + o → t.readCell a = if landed then some (s.delivered a) else s.readCell a)
      ∧ (32 + o < j → t.readCell a = some (s.delivered a))
      ∧ (29 + o < j → t.q = s.delivered a)
      ∧ (j = 29 + o → landed = true → t.q = s.delivered a)
      ∧ t.trace.length = s.trace.length + n + 1)

/-! ## The whole machine -/

/-- The invariant of the registers, the outputs and the memory holds after reset. -/
def Obligations.ResetMeetsTheInvariant : Prop := Inv State.reset

/-- Every step keeps the invariant, whatever the turn. -/
def Obligations.StepKeepsTheInvariant : Prop :=
  ∀ s t : State, Inv s → step s = .next t → Inv t

/-- From a state that meets the invariant no step faults: the model's two faults name positions that do not
exist. -/
def Obligations.InvariantExcludesFaults : Prop :=
  ∀ (s : State) (f : Fault), Inv s → step s ≠ .fault f

/-- The lines fit the position all through a load: every step that stays in RUN keeps the fit, whatever the turn. -/
def Obligations.LoadKeepsTheLinesFitting : Prop :=
  ∀ s t : State, s.phase = .run → LinesFit s → step s = .next t → t.phase = .run → LinesFit t

/-- R135, R136, R137: with the lines fitting, a step of the sequencer changes an address line or `Q` only with
`WE_n = 1` before and after it; the event that raises CLK finds it low; and CLK is driven only while LATCH is
low. -/
def Obligations.SequencerKeepsTheHazardRules : Prop :=
  ∀ s t : State, s.phase = .run → s.turns = [] → LinesFit s → step s = .next t →
    (t.lines.address ≠ s.lines.address ∨ t.q ≠ s.q → s.lines.weN = true ∧ t.lines.weN = true)
      ∧ (∀ ok, t.trace = s.trace ++ [⟨.set .clk true, ok⟩] → s.lines.clk = false)
      ∧ (∀ v ok, t.trace = s.trace ++ [⟨.set .clk v, ok⟩] → s.lines.latch = false)

/-- R142: whatever the turn, a step in RUN leaves the configuration and the image alone, unless it is a RESET. -/
def Obligations.ConfigurationIsFixedDuringALoad : Prop :=
  ∀ s t : State, s.phase = .run → step s = .next t → t.phase ≠ .idle → t.cfg = s.cfg ∧ t.img = s.img

/-- R120: FAULT is left only by RESET, or by a LOAD, which starts at address 0 with all 16 words and with whatever
levels the lines have. R121, R22: while it is not left, the code and the position it recorded stay, but for a LOAD that
is itself refused; that they stay through an operation the host issues by its code, accepted or rejected, is the
model's reading of logs 12 and 13. A RESET is the code 0xFF or one that stops an operation (log 23). -/
def Obligations.FaultIsLeftOnlyByResetOrLoad : Prop :=
  ∀ s t : State, s.phase = .fault → step s = .next t →
    (t.phase ≠ .fault →
      (t.phase = .idle
          ∧ ∃ rest, s.turns = .code .seqOp 0xFF :: rest ∨ (∃ f b k, s.turns = .codeThenReset f b k :: rest))
        ∨ (t.phase = .run ∧ t.aCnt = 0 ∧ t.j = 0 ∧ t.lines = s.lines
          ∧ t.img.toList.map (fun w => w.toNat) = s.offer.image
          ∧ ∃ b rest, s.turns = .code .seqOp b :: rest ∧ (b = 0x90 ∨ b = 0x91)))
      ∧ (t.phase = .fault →
          (t.code = s.code ∧ t.aCnt = s.aCnt ∧ t.j = s.j)
            ∨ (t.code = 5 ∧ t.aCnt = 0 ∧ t.j = 0
              ∧ ∃ b rest, s.turns = .code .seqOp b :: rest ∧ (b = 0x90 ∨ b = 0x91)))

/-- R27, R48: whatever the turn, the block and its reply to the host do not depend on the target: two states that
differ only in `SR`, `Q` and `M` step alike, but for those. -/
def Obligations.TargetIsNeverReadBack : Prop :=
  ∀ (s t : State) (sr q : Byte) (m : Memory), step s = .next t →
    ∃ t', step { s with sr := sr, q := q, m := m } = .next t'
      ∧ { t' with sr := t.sr, q := t.q, m := t.m } = t

/-- R28: no step writes the parameters of the environment. -/
def Obligations.ParametersNeverChange : Prop :=
  ∀ s t : State, step s = .next t → t.params = s.params
end

