-- ==== Sys2Proof/Laws/Operands.lean ====
section
/-! SUPPORT. The small laws of the operand forms: lines, addresses, event lists, and the legality of LOAD's data. -/

namespace Sys2Proof.Machine

@[simp] theorem Lines.get_set_same (l : Lines) (p : Line) (v : Bool) : (l.set p v).get p = v := by
  cases p <;> rfl

theorem Lines.get_set_other (l : Lines) (p p' : Line) (v : Bool) (h : p' ≠ p) :
    (l.set p v).get p' = l.get p' := by
  cases p <;> cases p' <;> first | rfl | exact absurd rfl h

@[simp] theorem Lines.set_get (l : Lines) (p : Line) : l.set p (l.get p) = l := by
  cases p <;> rfl

theorem Lines.address_lt (l : Lines) : l.address.toNat < 16 := l.address.isLt

/-- Driving a line that is no address line leaves the address alone (20_memory.md R33). -/
theorem Lines.address_set (l : Lines) (p : Line) (v : Bool) (h : isAddressLine p = false) :
    (l.set p v).address = l.address := by
  cases p <;> first | rfl | exact absurd h (by decide)

/-- The address lines at the bits of `a` present the address `a` (30_encoding.md R55). -/
theorem Lines.address_of_bits (l : Lines) (a : Nibble) :
    ({ l with a0 := a[0], a1 := a[1], a2 := a[2], a3 := a[3] } : Lines).address = a := by
  show BitVec.ofBool a[3] ++ (BitVec.ofBool a[2] ++ (BitVec.ofBool a[1] ++ BitVec.ofBool a[0])) = a
  revert a
  decide

@[simp] theorem Cfg.offset_le (c : Cfg) : c.offset ≤ 1 := by
  unfold Cfg.offset
  split <;> omega

@[simp] theorem addrselPrims_length (a : Nibble) (c : Cfg) : (addrselPrims a c).length = 4 + c.offset := by
  unfold addrselPrims Cfg.offset
  split <;> rfl

@[simp] theorem frame_length (w : Byte) (o : Order) : (frame w o).length = 8 := by
  cases o <;> rfl

@[simp] theorem shiftoutPrims_length (w : Byte) (o : Order) : (shiftoutPrims w o).length = 28 := by
  cases o <;> rfl

/-- An event list has `36 + o` events (45_load_sequencer.md R98). -/
@[simp] theorem eventList_length (a : Nibble) (w : Byte) (c : Cfg) : (eventList a w c).length = c.eventCount := by
  simp only [eventList, List.length_append, addrselPrims_length, shiftoutPrims_length, Cfg.eventCount]
  simp only [wrpulsePrims, gapPrims, List.length_cons, List.length_nil]
  omega

theorem bitrev8_getLsbD (w : Byte) (i : Nat) (h : i < 8) : (bitrev8 w).getLsbD i = w.getLsbD (7 - i) := by
  have : i = 0 ∨ i = 1 ∨ i = 2 ∨ i = 3 ∨ i = 4 ∨ i = 5 ∨ i = 6 ∨ i = 7 := by omega
  rcases this with rfl | rfl | rfl | rfl | rfl | rfl | rfl | rfl <;>
    simp [bitrev8, BitVec.ofBoolListBE, BitVec.getLsbD_eq_getElem, BitVec.getElem_cons]

/-- The configuration a legal LOAD brings is legal. -/
theorem LoadData.cfg_legal (d : LoadData) (o : Order) (h : d.legal = true) : (d.cfg o).legal = true := by
  simp only [LoadData.legal, Bool.and_eq_true, decide_eq_true_eq] at h
  obtain ⟨⟨⟨⟨⟨⟨⟨⟨-, -⟩, hl⟩, hw⟩, hg⟩, -⟩, hl'⟩, hw'⟩, hg'⟩ := h
  have hmax : Config.delayMax = 65535 := rfl
  simp only [Cfg.legal, LoadData.cfg, BitVec.toNat_ofNat, Bool.and_eq_true, decide_eq_true_eq]
  rw [Nat.mod_eq_of_lt (by omega), Nat.mod_eq_of_lt (by omega), Nat.mod_eq_of_lt (by omega)]
  exact ⟨⟨hl, hw⟩, hg⟩

end Sys2Proof.Machine
end

