-- ==== Sys2Proof/Laws/State.lean ====
section
/-! SUPPORT. What each named update of the state leaves in each field: one lemma a field, true by unfolding, so that
no later proof unfolds a record update. -/

namespace Sys2Proof.Machine

/-! ### drive -/

@[simp] theorem State.drive_phase (s : State) (p : Line) (v : Bool) : (s.drive p v).phase = s.phase := rfl
@[simp] theorem State.drive_aCnt (s : State) (p : Line) (v : Bool) : (s.drive p v).aCnt = s.aCnt := rfl
@[simp] theorem State.drive_j (s : State) (p : Line) (v : Bool) : (s.drive p v).j = s.j := rfl
@[simp] theorem State.drive_w (s : State) (p : Line) (v : Bool) : (s.drive p v).w = s.w := rfl
@[simp] theorem State.drive_code (s : State) (p : Line) (v : Bool) : (s.drive p v).code = s.code := rfl
@[simp] theorem State.drive_cfg (s : State) (p : Line) (v : Bool) : (s.drive p v).cfg = s.cfg := rfl
@[simp] theorem State.drive_img (s : State) (p : Line) (v : Bool) : (s.drive p v).img = s.img := rfl
@[simp] theorem State.drive_lines (s : State) (p : Line) (v : Bool) : (s.drive p v).lines = s.lines.set p v := rfl
@[simp] theorem State.drive_sr (s : State) (p : Line) (v : Bool) : (s.drive p v).sr = s.srAfter p v := rfl
@[simp] theorem State.drive_q (s : State) (p : Line) (v : Bool) : (s.drive p v).q = s.qAfter p v := rfl
@[simp] theorem State.drive_m (s : State) (p : Line) (v : Bool) : (s.drive p v).m = s.mAfter p v := rfl
@[simp] theorem State.drive_trace (s : State) (p : Line) (v : Bool) : (s.drive p v).trace = s.trace := rfl
@[simp] theorem State.drive_time (s : State) (p : Line) (v : Bool) : (s.drive p v).time = s.time := rfl
@[simp] theorem State.drive_params (s : State) (p : Line) (v : Bool) : (s.drive p v).params = s.params := rfl
@[simp] theorem State.drive_pinPath (s : State) (p : Line) (v : Bool) : (s.drive p v).pinPath = s.pinPath := rfl
@[simp] theorem State.drive_draws (s : State) (p : Line) (v : Bool) : (s.drive p v).draws = s.draws := rfl
@[simp] theorem State.drive_turns (s : State) (p : Line) (v : Bool) : (s.drive p v).turns = s.turns := rfl
@[simp] theorem State.drive_offer (s : State) (p : Line) (v : Bool) : (s.drive p v).offer = s.offer := rfl
@[simp] theorem State.drive_reply (s : State) (p : Line) (v : Bool) : (s.drive p v).reply = s.reply := rfl
@[simp] theorem State.drive_asm (s : State) (p : Line) (v : Bool) : (s.drive p v).asm = s.asm := rfl

/-! ### settle -/

@[simp] theorem State.settle_phase (s : State) : s.settle.phase = s.phase := rfl
@[simp] theorem State.settle_aCnt (s : State) : s.settle.aCnt = s.aCnt := rfl
@[simp] theorem State.settle_j (s : State) : s.settle.j = s.j := rfl
@[simp] theorem State.settle_w (s : State) : s.settle.w = s.w := rfl
@[simp] theorem State.settle_code (s : State) : s.settle.code = s.code := rfl
@[simp] theorem State.settle_cfg (s : State) : s.settle.cfg = s.cfg := rfl
@[simp] theorem State.settle_img (s : State) : s.settle.img = s.img := rfl
@[simp] theorem State.settle_lines (s : State) : s.settle.lines = s.lines := rfl
@[simp] theorem State.settle_sr (s : State) : s.settle.sr = s.sr := rfl
@[simp] theorem State.settle_q (s : State) : s.settle.q = s.qSettled := rfl
@[simp] theorem State.settle_m (s : State) : s.settle.m = s.mSettled := rfl
@[simp] theorem State.settle_trace (s : State) : s.settle.trace = s.trace := rfl
@[simp] theorem State.settle_time (s : State) : s.settle.time = s.time := rfl
@[simp] theorem State.settle_params (s : State) : s.settle.params = s.params := rfl
@[simp] theorem State.settle_pinPath (s : State) : s.settle.pinPath = s.pinPath := rfl
@[simp] theorem State.settle_draws (s : State) : s.settle.draws = s.draws := rfl
@[simp] theorem State.settle_turns (s : State) : s.settle.turns = s.turns := rfl
@[simp] theorem State.settle_offer (s : State) : s.settle.offer = s.offer := rfl
@[simp] theorem State.settle_reply (s : State) : s.settle.reply = s.reply := rfl
@[simp] theorem State.settle_asm (s : State) : s.settle.asm = s.asm := rfl

/-! ### spend -/

@[simp] theorem State.spend_phase (s : State) : s.spend.phase = s.phase := rfl
@[simp] theorem State.spend_aCnt (s : State) : s.spend.aCnt = s.aCnt := rfl
@[simp] theorem State.spend_j (s : State) : s.spend.j = s.j := rfl
@[simp] theorem State.spend_w (s : State) : s.spend.w = s.w := rfl
@[simp] theorem State.spend_code (s : State) : s.spend.code = s.code := rfl
@[simp] theorem State.spend_cfg (s : State) : s.spend.cfg = s.cfg := rfl
@[simp] theorem State.spend_img (s : State) : s.spend.img = s.img := rfl
@[simp] theorem State.spend_lines (s : State) : s.spend.lines = s.lines := rfl
@[simp] theorem State.spend_sr (s : State) : s.spend.sr = s.sr := rfl
@[simp] theorem State.spend_q (s : State) : s.spend.q = s.q := rfl
@[simp] theorem State.spend_m (s : State) : s.spend.m = s.m := rfl
@[simp] theorem State.spend_trace (s : State) : s.spend.trace = s.trace := rfl
@[simp] theorem State.spend_time (s : State) : s.spend.time = s.time := rfl
@[simp] theorem State.spend_params (s : State) : s.spend.params = s.params := rfl
@[simp] theorem State.spend_pinPath (s : State) : s.spend.pinPath = s.pinPath.tail := rfl
@[simp] theorem State.spend_draws (s : State) : s.spend.draws = s.draws + 1 := rfl
@[simp] theorem State.spend_turns (s : State) : s.spend.turns = s.turns := rfl
@[simp] theorem State.spend_offer (s : State) : s.spend.offer = s.offer := rfl
@[simp] theorem State.spend_reply (s : State) : s.spend.reply = s.reply := rfl
@[simp] theorem State.spend_asm (s : State) : s.spend.asm = s.asm := rfl

/-! ### pass -/

@[simp] theorem State.pass_phase (s : State) (ms : Nat) : (s.pass ms).phase = s.phase := rfl
@[simp] theorem State.pass_aCnt (s : State) (ms : Nat) : (s.pass ms).aCnt = s.aCnt := rfl
@[simp] theorem State.pass_j (s : State) (ms : Nat) : (s.pass ms).j = s.j := rfl
@[simp] theorem State.pass_w (s : State) (ms : Nat) : (s.pass ms).w = s.w := rfl
@[simp] theorem State.pass_code (s : State) (ms : Nat) : (s.pass ms).code = s.code := rfl
@[simp] theorem State.pass_cfg (s : State) (ms : Nat) : (s.pass ms).cfg = s.cfg := rfl
@[simp] theorem State.pass_img (s : State) (ms : Nat) : (s.pass ms).img = s.img := rfl
@[simp] theorem State.pass_lines (s : State) (ms : Nat) : (s.pass ms).lines = s.lines := rfl
@[simp] theorem State.pass_sr (s : State) (ms : Nat) : (s.pass ms).sr = s.sr := rfl
@[simp] theorem State.pass_q (s : State) (ms : Nat) : (s.pass ms).q = s.q := rfl
@[simp] theorem State.pass_m (s : State) (ms : Nat) : (s.pass ms).m = s.m := rfl
@[simp] theorem State.pass_trace (s : State) (ms : Nat) : (s.pass ms).trace = s.trace := rfl
@[simp] theorem State.pass_time (s : State) (ms : Nat) :
    (s.pass ms).time = s.time + (ms + Config.spareMs s.draws) := rfl
@[simp] theorem State.pass_params (s : State) (ms : Nat) : (s.pass ms).params = s.params := rfl
@[simp] theorem State.pass_pinPath (s : State) (ms : Nat) : (s.pass ms).pinPath = s.pinPath := rfl
@[simp] theorem State.pass_draws (s : State) (ms : Nat) : (s.pass ms).draws = s.draws := rfl
@[simp] theorem State.pass_turns (s : State) (ms : Nat) : (s.pass ms).turns = s.turns := rfl
@[simp] theorem State.pass_offer (s : State) (ms : Nat) : (s.pass ms).offer = s.offer := rfl
@[simp] theorem State.pass_reply (s : State) (ms : Nat) : (s.pass ms).reply = s.reply := rfl
@[simp] theorem State.pass_asm (s : State) (ms : Nat) : (s.pass ms).asm = s.asm := rfl

/-! ### record -/

@[simp] theorem State.record_phase (s : State) (e : Event) (ok : Bool) : (s.record e ok).phase = s.phase := rfl
@[simp] theorem State.record_aCnt (s : State) (e : Event) (ok : Bool) : (s.record e ok).aCnt = s.aCnt := rfl
@[simp] theorem State.record_j (s : State) (e : Event) (ok : Bool) : (s.record e ok).j = s.j := rfl
@[simp] theorem State.record_w (s : State) (e : Event) (ok : Bool) : (s.record e ok).w = s.w := rfl
@[simp] theorem State.record_code (s : State) (e : Event) (ok : Bool) : (s.record e ok).code = s.code := rfl
@[simp] theorem State.record_cfg (s : State) (e : Event) (ok : Bool) : (s.record e ok).cfg = s.cfg := rfl
@[simp] theorem State.record_img (s : State) (e : Event) (ok : Bool) : (s.record e ok).img = s.img := rfl
@[simp] theorem State.record_lines (s : State) (e : Event) (ok : Bool) : (s.record e ok).lines = s.lines := rfl
@[simp] theorem State.record_sr (s : State) (e : Event) (ok : Bool) : (s.record e ok).sr = s.sr := rfl
@[simp] theorem State.record_q (s : State) (e : Event) (ok : Bool) : (s.record e ok).q = s.q := rfl
@[simp] theorem State.record_m (s : State) (e : Event) (ok : Bool) : (s.record e ok).m = s.m := rfl
@[simp] theorem State.record_trace (s : State) (e : Event) (ok : Bool) :
    (s.record e ok).trace = s.trace ++ [⟨e, ok⟩] := rfl
@[simp] theorem State.record_time (s : State) (e : Event) (ok : Bool) : (s.record e ok).time = s.time := rfl
@[simp] theorem State.record_params (s : State) (e : Event) (ok : Bool) : (s.record e ok).params = s.params := rfl
@[simp] theorem State.record_pinPath (s : State) (e : Event) (ok : Bool) :
    (s.record e ok).pinPath = s.pinPath := rfl
@[simp] theorem State.record_draws (s : State) (e : Event) (ok : Bool) : (s.record e ok).draws = s.draws := rfl
@[simp] theorem State.record_turns (s : State) (e : Event) (ok : Bool) : (s.record e ok).turns = s.turns := rfl
@[simp] theorem State.record_offer (s : State) (e : Event) (ok : Bool) : (s.record e ok).offer = s.offer := rfl
@[simp] theorem State.record_reply (s : State) (e : Event) (ok : Bool) : (s.record e ok).reply = s.reply := rfl
@[simp] theorem State.record_asm (s : State) (e : Event) (ok : Bool) : (s.record e ok).asm = s.asm := rfl

/-! ### raiseFault -/

@[simp] theorem State.raiseFault_phase (s : State) (c : BitVec 3) (a : BitVec 5) (j : BitVec 6) :
    (s.raiseFault c a j).phase = .fault := rfl
@[simp] theorem State.raiseFault_aCnt (s : State) (c : BitVec 3) (a : BitVec 5) (j : BitVec 6) :
    (s.raiseFault c a j).aCnt = a := rfl
@[simp] theorem State.raiseFault_j (s : State) (c : BitVec 3) (a : BitVec 5) (j : BitVec 6) :
    (s.raiseFault c a j).j = j := rfl
@[simp] theorem State.raiseFault_w (s : State) (c : BitVec 3) (a : BitVec 5) (j : BitVec 6) :
    (s.raiseFault c a j).w = s.w := rfl
@[simp] theorem State.raiseFault_code (s : State) (c : BitVec 3) (a : BitVec 5) (j : BitVec 6) :
    (s.raiseFault c a j).code = c := rfl
@[simp] theorem State.raiseFault_cfg (s : State) (c : BitVec 3) (a : BitVec 5) (j : BitVec 6) :
    (s.raiseFault c a j).cfg = s.cfg := rfl
@[simp] theorem State.raiseFault_img (s : State) (c : BitVec 3) (a : BitVec 5) (j : BitVec 6) :
    (s.raiseFault c a j).img = s.img := rfl
@[simp] theorem State.raiseFault_lines (s : State) (c : BitVec 3) (a : BitVec 5) (j : BitVec 6) :
    (s.raiseFault c a j).lines = s.lines := rfl
@[simp] theorem State.raiseFault_sr (s : State) (c : BitVec 3) (a : BitVec 5) (j : BitVec 6) :
    (s.raiseFault c a j).sr = s.sr := rfl
@[simp] theorem State.raiseFault_q (s : State) (c : BitVec 3) (a : BitVec 5) (j : BitVec 6) :
    (s.raiseFault c a j).q = s.q := rfl
@[simp] theorem State.raiseFault_m (s : State) (c : BitVec 3) (a : BitVec 5) (j : BitVec 6) :
    (s.raiseFault c a j).m = s.m := rfl
@[simp] theorem State.raiseFault_trace (s : State) (c : BitVec 3) (a : BitVec 5) (j : BitVec 6) :
    (s.raiseFault c a j).trace = s.trace := rfl
@[simp] theorem State.raiseFault_time (s : State) (c : BitVec 3) (a : BitVec 5) (j : BitVec 6) :
    (s.raiseFault c a j).time = s.time := rfl
@[simp] theorem State.raiseFault_params (s : State) (c : BitVec 3) (a : BitVec 5) (j : BitVec 6) :
    (s.raiseFault c a j).params = s.params := rfl
@[simp] theorem State.raiseFault_pinPath (s : State) (c : BitVec 3) (a : BitVec 5) (j : BitVec 6) :
    (s.raiseFault c a j).pinPath = s.pinPath := rfl
@[simp] theorem State.raiseFault_draws (s : State) (c : BitVec 3) (a : BitVec 5) (j : BitVec 6) :
    (s.raiseFault c a j).draws = s.draws := rfl
@[simp] theorem State.raiseFault_turns (s : State) (c : BitVec 3) (a : BitVec 5) (j : BitVec 6) :
    (s.raiseFault c a j).turns = s.turns := rfl
@[simp] theorem State.raiseFault_offer (s : State) (c : BitVec 3) (a : BitVec 5) (j : BitVec 6) :
    (s.raiseFault c a j).offer = s.offer := rfl
@[simp] theorem State.raiseFault_reply (s : State) (c : BitVec 3) (a : BitVec 5) (j : BitVec 6) :
    (s.raiseFault c a j).reply = s.reply := rfl
@[simp] theorem State.raiseFault_asm (s : State) (c : BitVec 3) (a : BitVec 5) (j : BitVec 6) :
    (s.raiseFault c a j).asm = s.asm := rfl

/-! ### startLoad -/

@[simp] theorem State.startLoad_phase (s : State) (c : Cfg) (x : Vector Byte 16) :
    (s.startLoad c x).phase = .run := rfl
@[simp] theorem State.startLoad_aCnt (s : State) (c : Cfg) (x : Vector Byte 16) : (s.startLoad c x).aCnt = 0 := rfl
@[simp] theorem State.startLoad_j (s : State) (c : Cfg) (x : Vector Byte 16) : (s.startLoad c x).j = 0 := rfl
@[simp] theorem State.startLoad_w (s : State) (c : Cfg) (x : Vector Byte 16) : (s.startLoad c x).w = s.w := rfl
@[simp] theorem State.startLoad_code (s : State) (c : Cfg) (x : Vector Byte 16) :
    (s.startLoad c x).code = codeNone := rfl
@[simp] theorem State.startLoad_cfg (s : State) (c : Cfg) (x : Vector Byte 16) : (s.startLoad c x).cfg = c := rfl
@[simp] theorem State.startLoad_img (s : State) (c : Cfg) (x : Vector Byte 16) : (s.startLoad c x).img = x := rfl
@[simp] theorem State.startLoad_lines (s : State) (c : Cfg) (x : Vector Byte 16) :
    (s.startLoad c x).lines = s.lines := rfl
@[simp] theorem State.startLoad_sr (s : State) (c : Cfg) (x : Vector Byte 16) : (s.startLoad c x).sr = s.sr := rfl
@[simp] theorem State.startLoad_q (s : State) (c : Cfg) (x : Vector Byte 16) : (s.startLoad c x).q = s.q := rfl
@[simp] theorem State.startLoad_m (s : State) (c : Cfg) (x : Vector Byte 16) : (s.startLoad c x).m = s.m := rfl
@[simp] theorem State.startLoad_trace (s : State) (c : Cfg) (x : Vector Byte 16) :
    (s.startLoad c x).trace = s.trace := rfl
@[simp] theorem State.startLoad_time (s : State) (c : Cfg) (x : Vector Byte 16) :
    (s.startLoad c x).time = s.time := rfl
@[simp] theorem State.startLoad_params (s : State) (c : Cfg) (x : Vector Byte 16) :
    (s.startLoad c x).params = s.params := rfl
@[simp] theorem State.startLoad_pinPath (s : State) (c : Cfg) (x : Vector Byte 16) :
    (s.startLoad c x).pinPath = s.pinPath := rfl
@[simp] theorem State.startLoad_draws (s : State) (c : Cfg) (x : Vector Byte 16) :
    (s.startLoad c x).draws = s.draws := rfl
@[simp] theorem State.startLoad_turns (s : State) (c : Cfg) (x : Vector Byte 16) :
    (s.startLoad c x).turns = s.turns := rfl
@[simp] theorem State.startLoad_offer (s : State) (c : Cfg) (x : Vector Byte 16) :
    (s.startLoad c x).offer = s.offer := rfl
@[simp] theorem State.startLoad_reply (s : State) (c : Cfg) (x : Vector Byte 16) :
    (s.startLoad c x).reply = s.reply := rfl
@[simp] theorem State.startLoad_asm (s : State) (c : Cfg) (x : Vector Byte 16) :
    (s.startLoad c x).asm = s.asm := rfl

/-! ### resetWith -/

@[simp] theorem State.driveAll_params (s : State) (l : List (Line × Bool)) : (s.driveAll l).params = s.params := by
  induction l generalizing s with
  | nil => rfl
  | cons e rest ih => exact ih (s.drive e.1 e.2)

@[simp] theorem State.driveAll_pinPath (s : State) (l : List (Line × Bool)) : (s.driveAll l).pinPath = s.pinPath := by
  induction l generalizing s with
  | nil => rfl
  | cons e rest ih => exact ih (s.drive e.1 e.2)

@[simp] theorem State.driveAll_draws (s : State) (l : List (Line × Bool)) : (s.driveAll l).draws = s.draws := by
  induction l generalizing s with
  | nil => rfl
  | cons e rest ih => exact ih (s.drive e.1 e.2)

@[simp] theorem State.driveAll_turns (s : State) (l : List (Line × Bool)) : (s.driveAll l).turns = s.turns := by
  induction l generalizing s with
  | nil => rfl
  | cons e rest ih => exact ih (s.drive e.1 e.2)

@[simp] theorem State.driveAll_offer (s : State) (l : List (Line × Bool)) : (s.driveAll l).offer = s.offer := by
  induction l generalizing s with
  | nil => rfl
  | cons e rest ih => exact ih (s.drive e.1 e.2)

@[simp] theorem State.driveAll_reply (s : State) (l : List (Line × Bool)) : (s.driveAll l).reply = s.reply := by
  induction l generalizing s with
  | nil => rfl
  | cons e rest ih => exact ih (s.drive e.1 e.2)

@[simp] theorem State.driveAll_asm (s : State) (l : List (Line × Bool)) : (s.driveAll l).asm = s.asm := by
  induction l generalizing s with
  | nil => rfl
  | cons e rest ih => exact ih (s.drive e.1 e.2)

@[simp] theorem State.resetWith_phase (s : State) (b : Bool) : (s.resetWith b).phase = .idle := rfl
@[simp] theorem State.resetWith_aCnt (s : State) (b : Bool) : (s.resetWith b).aCnt = 0 := rfl
@[simp] theorem State.resetWith_j (s : State) (b : Bool) : (s.resetWith b).j = 0 := rfl
@[simp] theorem State.resetWith_w (s : State) (b : Bool) : (s.resetWith b).w = 0 := rfl
@[simp] theorem State.resetWith_code (s : State) (b : Bool) : (s.resetWith b).code = codeNone := rfl
@[simp] theorem State.resetWith_cfg (s : State) (b : Bool) : (s.resetWith b).cfg = .default := rfl
@[simp] theorem State.resetWith_img (s : State) (b : Bool) : (s.resetWith b).img = imageAfterReset s.draws := rfl
@[simp] theorem State.resetWith_lines (s : State) (b : Bool) : (s.resetWith b).lines = .reset := rfl
@[simp] theorem State.resetWith_sr (s : State) (b : Bool) : (s.resetWith b).sr = s.srAfterReset b := rfl
@[simp] theorem State.resetWith_q (s : State) (b : Bool) : (s.resetWith b).q = (s.driveAll resetDrives).q := rfl
@[simp] theorem State.resetWith_m (s : State) (b : Bool) : (s.resetWith b).m = (s.driveAll resetDrives).m := rfl
@[simp] theorem State.resetWith_trace (s : State) (b : Bool) : (s.resetWith b).trace = [] := rfl
@[simp] theorem State.resetWith_time (s : State) (b : Bool) : (s.resetWith b).time = 0 := rfl
@[simp] theorem State.resetWith_params (s : State) (b : Bool) :
    (s.resetWith b).params = s.params := s.driveAll_params resetDrives
@[simp] theorem State.resetWith_pinPath (s : State) (b : Bool) :
    (s.resetWith b).pinPath = s.pinPath := s.driveAll_pinPath resetDrives
@[simp] theorem State.resetWith_draws (s : State) (b : Bool) : (s.resetWith b).draws = s.draws + 1 := rfl
@[simp] theorem State.resetWith_turns (s : State) (b : Bool) :
    (s.resetWith b).turns = s.turns := s.driveAll_turns resetDrives
@[simp] theorem State.resetWith_offer (s : State) (b : Bool) :
    (s.resetWith b).offer = s.offer := s.driveAll_offer resetDrives
@[simp] theorem State.resetWith_reply (s : State) (b : Bool) :
    (s.resetWith b).reply = s.reply := s.driveAll_reply resetDrives
@[simp] theorem State.resetWith_asm (s : State) (b : Bool) :
    (s.resetWith b).asm = s.asm := s.driveAll_asm resetDrives

/-! ### loseShift -/

@[simp] theorem State.loseShift_phase (s : State) : s.loseShift.phase = s.phase := rfl
@[simp] theorem State.loseShift_aCnt (s : State) : s.loseShift.aCnt = s.aCnt := rfl
@[simp] theorem State.loseShift_j (s : State) : s.loseShift.j = s.j := rfl
@[simp] theorem State.loseShift_w (s : State) : s.loseShift.w = s.w := rfl
@[simp] theorem State.loseShift_code (s : State) : s.loseShift.code = s.code := rfl
@[simp] theorem State.loseShift_cfg (s : State) : s.loseShift.cfg = s.cfg := rfl
@[simp] theorem State.loseShift_img (s : State) : s.loseShift.img = s.img := rfl
@[simp] theorem State.loseShift_lines (s : State) : s.loseShift.lines = s.lines := rfl
@[simp] theorem State.loseShift_sr (s : State) :
    s.loseShift.sr = if s.released then s.sr else Config.abortedShift s.draws := rfl
@[simp] theorem State.loseShift_q (s : State) : s.loseShift.q = s.q := rfl
@[simp] theorem State.loseShift_m (s : State) : s.loseShift.m = s.m := rfl
@[simp] theorem State.loseShift_trace (s : State) : s.loseShift.trace = s.trace := rfl
@[simp] theorem State.loseShift_time (s : State) : s.loseShift.time = s.time := rfl
@[simp] theorem State.loseShift_params (s : State) : s.loseShift.params = s.params := rfl
@[simp] theorem State.loseShift_pinPath (s : State) : s.loseShift.pinPath = s.pinPath := rfl
@[simp] theorem State.loseShift_draws (s : State) : s.loseShift.draws = s.draws + 1 := rfl
@[simp] theorem State.loseShift_turns (s : State) : s.loseShift.turns = s.turns := rfl
@[simp] theorem State.loseShift_offer (s : State) : s.loseShift.offer = s.offer := rfl
@[simp] theorem State.loseShift_reply (s : State) : s.loseShift.reply = s.reply := rfl
@[simp] theorem State.loseShift_asm (s : State) : s.loseShift.asm = s.asm := rfl

/-! ### fetchWord -/

@[simp] theorem State.fetchWord_phase (s : State) (a : Nibble) : (s.fetchWord a).phase = s.phase := rfl
@[simp] theorem State.fetchWord_aCnt (s : State) (a : Nibble) : (s.fetchWord a).aCnt = s.aCnt := rfl
@[simp] theorem State.fetchWord_j (s : State) (a : Nibble) : (s.fetchWord a).j = s.j := rfl
@[simp] theorem State.fetchWord_w (s : State) (a : Nibble) : (s.fetchWord a).w = imgRead s.img a := rfl
@[simp] theorem State.fetchWord_code (s : State) (a : Nibble) : (s.fetchWord a).code = s.code := rfl
@[simp] theorem State.fetchWord_cfg (s : State) (a : Nibble) : (s.fetchWord a).cfg = s.cfg := rfl
@[simp] theorem State.fetchWord_img (s : State) (a : Nibble) : (s.fetchWord a).img = s.img := rfl
@[simp] theorem State.fetchWord_lines (s : State) (a : Nibble) : (s.fetchWord a).lines = s.lines := rfl
@[simp] theorem State.fetchWord_sr (s : State) (a : Nibble) : (s.fetchWord a).sr = s.sr := rfl
@[simp] theorem State.fetchWord_q (s : State) (a : Nibble) : (s.fetchWord a).q = s.q := rfl
@[simp] theorem State.fetchWord_m (s : State) (a : Nibble) : (s.fetchWord a).m = s.m := rfl
@[simp] theorem State.fetchWord_trace (s : State) (a : Nibble) : (s.fetchWord a).trace = s.trace := rfl
@[simp] theorem State.fetchWord_time (s : State) (a : Nibble) : (s.fetchWord a).time = s.time := rfl
@[simp] theorem State.fetchWord_params (s : State) (a : Nibble) : (s.fetchWord a).params = s.params := rfl
@[simp] theorem State.fetchWord_pinPath (s : State) (a : Nibble) : (s.fetchWord a).pinPath = s.pinPath := rfl
@[simp] theorem State.fetchWord_draws (s : State) (a : Nibble) : (s.fetchWord a).draws = s.draws := rfl
@[simp] theorem State.fetchWord_turns (s : State) (a : Nibble) : (s.fetchWord a).turns = s.turns := rfl
@[simp] theorem State.fetchWord_offer (s : State) (a : Nibble) : (s.fetchWord a).offer = s.offer := rfl
@[simp] theorem State.fetchWord_reply (s : State) (a : Nibble) : (s.fetchWord a).reply = s.reply := rfl
@[simp] theorem State.fetchWord_asm (s : State) (a : Nibble) : (s.fetchWord a).asm = s.asm := rfl

/-! ### emit -/

@[simp] theorem State.emit_phase (s : State) (e : Entry) : (s.emit e).phase = s.phase := rfl
@[simp] theorem State.emit_aCnt (s : State) (e : Entry) : (s.emit e).aCnt = s.aCnt := rfl
@[simp] theorem State.emit_j (s : State) (e : Entry) : (s.emit e).j = s.j := rfl
@[simp] theorem State.emit_w (s : State) (e : Entry) : (s.emit e).w = s.w := rfl
@[simp] theorem State.emit_code (s : State) (e : Entry) : (s.emit e).code = s.code := rfl
@[simp] theorem State.emit_cfg (s : State) (e : Entry) : (s.emit e).cfg = s.cfg := rfl
@[simp] theorem State.emit_img (s : State) (e : Entry) : (s.emit e).img = s.img := rfl
@[simp] theorem State.emit_lines (s : State) (e : Entry) : (s.emit e).lines = s.lines := rfl
@[simp] theorem State.emit_sr (s : State) (e : Entry) : (s.emit e).sr = s.sr := rfl
@[simp] theorem State.emit_q (s : State) (e : Entry) : (s.emit e).q = s.q := rfl
@[simp] theorem State.emit_m (s : State) (e : Entry) : (s.emit e).m = s.m := rfl
@[simp] theorem State.emit_trace (s : State) (e : Entry) : (s.emit e).trace = s.trace := rfl
@[simp] theorem State.emit_time (s : State) (e : Entry) : (s.emit e).time = s.time := rfl
@[simp] theorem State.emit_params (s : State) (e : Entry) : (s.emit e).params = s.params := rfl
@[simp] theorem State.emit_pinPath (s : State) (e : Entry) : (s.emit e).pinPath = s.pinPath := rfl
@[simp] theorem State.emit_draws (s : State) (e : Entry) : (s.emit e).draws = s.draws := rfl
@[simp] theorem State.emit_turns (s : State) (e : Entry) : (s.emit e).turns = s.turns := rfl
@[simp] theorem State.emit_offer (s : State) (e : Entry) : (s.emit e).offer = s.offer := rfl
@[simp] theorem State.emit_reply (s : State) (e : Entry) : (s.emit e).reply = s.reply := rfl
@[simp] theorem State.emit_asm (s : State) (e : Entry) :
    (s.emit e).asm = ⟨s.asm.entries ++ [e], s.asm.error⟩ := rfl

/-! ### answerHost -/

@[simp] theorem State.answerHost_phase (s : State) (r : Reply) : (s.answerHost r).phase = s.phase := rfl
@[simp] theorem State.answerHost_aCnt (s : State) (r : Reply) : (s.answerHost r).aCnt = s.aCnt := rfl
@[simp] theorem State.answerHost_j (s : State) (r : Reply) : (s.answerHost r).j = s.j := rfl
@[simp] theorem State.answerHost_w (s : State) (r : Reply) : (s.answerHost r).w = s.w := rfl
@[simp] theorem State.answerHost_code (s : State) (r : Reply) : (s.answerHost r).code = s.code := rfl
@[simp] theorem State.answerHost_cfg (s : State) (r : Reply) : (s.answerHost r).cfg = s.cfg := rfl
@[simp] theorem State.answerHost_img (s : State) (r : Reply) : (s.answerHost r).img = s.img := rfl
@[simp] theorem State.answerHost_lines (s : State) (r : Reply) : (s.answerHost r).lines = s.lines := rfl
@[simp] theorem State.answerHost_sr (s : State) (r : Reply) : (s.answerHost r).sr = s.sr := rfl
@[simp] theorem State.answerHost_q (s : State) (r : Reply) : (s.answerHost r).q = s.q := rfl
@[simp] theorem State.answerHost_m (s : State) (r : Reply) : (s.answerHost r).m = s.m := rfl
@[simp] theorem State.answerHost_trace (s : State) (r : Reply) : (s.answerHost r).trace = s.trace := rfl
@[simp] theorem State.answerHost_time (s : State) (r : Reply) : (s.answerHost r).time = s.time := rfl
@[simp] theorem State.answerHost_params (s : State) (r : Reply) : (s.answerHost r).params = s.params := rfl
@[simp] theorem State.answerHost_pinPath (s : State) (r : Reply) : (s.answerHost r).pinPath = s.pinPath := rfl
@[simp] theorem State.answerHost_draws (s : State) (r : Reply) : (s.answerHost r).draws = s.draws := rfl
@[simp] theorem State.answerHost_turns (s : State) (r : Reply) : (s.answerHost r).turns = s.turns := rfl
@[simp] theorem State.answerHost_offer (s : State) (r : Reply) : (s.answerHost r).offer = s.offer := rfl
@[simp] theorem State.answerHost_reply (s : State) (r : Reply) : (s.answerHost r).reply = some r := rfl
@[simp] theorem State.answerHost_asm (s : State) (r : Reply) : (s.answerHost r).asm = s.asm := rfl

/-! ### asmFail -/

@[simp] theorem State.asmFail_phase (s : State) (e : AsmError) : (s.asmFail e).phase = s.phase := rfl
@[simp] theorem State.asmFail_aCnt (s : State) (e : AsmError) : (s.asmFail e).aCnt = s.aCnt := rfl
@[simp] theorem State.asmFail_j (s : State) (e : AsmError) : (s.asmFail e).j = s.j := rfl
@[simp] theorem State.asmFail_w (s : State) (e : AsmError) : (s.asmFail e).w = s.w := rfl
@[simp] theorem State.asmFail_code (s : State) (e : AsmError) : (s.asmFail e).code = s.code := rfl
@[simp] theorem State.asmFail_cfg (s : State) (e : AsmError) : (s.asmFail e).cfg = s.cfg := rfl
@[simp] theorem State.asmFail_img (s : State) (e : AsmError) : (s.asmFail e).img = s.img := rfl
@[simp] theorem State.asmFail_lines (s : State) (e : AsmError) : (s.asmFail e).lines = s.lines := rfl
@[simp] theorem State.asmFail_sr (s : State) (e : AsmError) : (s.asmFail e).sr = s.sr := rfl
@[simp] theorem State.asmFail_q (s : State) (e : AsmError) : (s.asmFail e).q = s.q := rfl
@[simp] theorem State.asmFail_m (s : State) (e : AsmError) : (s.asmFail e).m = s.m := rfl
@[simp] theorem State.asmFail_trace (s : State) (e : AsmError) : (s.asmFail e).trace = s.trace := rfl
@[simp] theorem State.asmFail_time (s : State) (e : AsmError) : (s.asmFail e).time = s.time := rfl
@[simp] theorem State.asmFail_params (s : State) (e : AsmError) : (s.asmFail e).params = s.params := rfl
@[simp] theorem State.asmFail_pinPath (s : State) (e : AsmError) : (s.asmFail e).pinPath = s.pinPath := rfl
@[simp] theorem State.asmFail_draws (s : State) (e : AsmError) : (s.asmFail e).draws = s.draws := rfl
@[simp] theorem State.asmFail_turns (s : State) (e : AsmError) : (s.asmFail e).turns = s.turns := rfl
@[simp] theorem State.asmFail_offer (s : State) (e : AsmError) : (s.asmFail e).offer = s.offer := rfl
@[simp] theorem State.asmFail_reply (s : State) (e : AsmError) : (s.asmFail e).reply = s.reply := rfl
@[simp] theorem State.asmFail_asm (s : State) (e : AsmError) : (s.asmFail e).asm = ⟨s.asm.entries, some e⟩ := rfl

/-! ### offerImage -/

@[simp] theorem State.offerImage_phase (s : State) (x : List Entry) : (s.offerImage x).phase = s.phase := rfl
@[simp] theorem State.offerImage_aCnt (s : State) (x : List Entry) : (s.offerImage x).aCnt = s.aCnt := rfl
@[simp] theorem State.offerImage_j (s : State) (x : List Entry) : (s.offerImage x).j = s.j := rfl
@[simp] theorem State.offerImage_w (s : State) (x : List Entry) : (s.offerImage x).w = s.w := rfl
@[simp] theorem State.offerImage_code (s : State) (x : List Entry) : (s.offerImage x).code = s.code := rfl
@[simp] theorem State.offerImage_cfg (s : State) (x : List Entry) : (s.offerImage x).cfg = s.cfg := rfl
@[simp] theorem State.offerImage_img (s : State) (x : List Entry) : (s.offerImage x).img = s.img := rfl
@[simp] theorem State.offerImage_lines (s : State) (x : List Entry) : (s.offerImage x).lines = s.lines := rfl
@[simp] theorem State.offerImage_sr (s : State) (x : List Entry) : (s.offerImage x).sr = s.sr := rfl
@[simp] theorem State.offerImage_q (s : State) (x : List Entry) : (s.offerImage x).q = s.q := rfl
@[simp] theorem State.offerImage_m (s : State) (x : List Entry) : (s.offerImage x).m = s.m := rfl
@[simp] theorem State.offerImage_trace (s : State) (x : List Entry) : (s.offerImage x).trace = s.trace := rfl
@[simp] theorem State.offerImage_time (s : State) (x : List Entry) : (s.offerImage x).time = s.time := rfl
@[simp] theorem State.offerImage_params (s : State) (x : List Entry) : (s.offerImage x).params = s.params := rfl
@[simp] theorem State.offerImage_pinPath (s : State) (x : List Entry) : (s.offerImage x).pinPath = s.pinPath := rfl
@[simp] theorem State.offerImage_draws (s : State) (x : List Entry) : (s.offerImage x).draws = s.draws := rfl
@[simp] theorem State.offerImage_turns (s : State) (x : List Entry) : (s.offerImage x).turns = s.turns := rfl
@[simp] theorem State.offerImage_offer (s : State) (x : List Entry) :
    (s.offerImage x).offer = { s.offer with image := x.map fun e => e.word.toNat } := rfl
@[simp] theorem State.offerImage_reply (s : State) (x : List Entry) : (s.offerImage x).reply = s.reply := rfl
@[simp] theorem State.offerImage_asm (s : State) (x : List Entry) : (s.offerImage x).asm = ⟨x, s.asm.error⟩ := rfl

/-! ### perform -/

@[simp] theorem State.perform_phase (s : State) (e : Prim) : (s.perform e).phase = s.phase := by
  cases e <;> rfl

@[simp] theorem State.perform_aCnt (s : State) (e : Prim) : (s.perform e).aCnt = s.aCnt := by
  cases e <;> rfl

@[simp] theorem State.perform_j (s : State) (e : Prim) : (s.perform e).j = s.j := by
  cases e <;> rfl

@[simp] theorem State.perform_w (s : State) (e : Prim) : (s.perform e).w = s.w := by
  cases e <;> rfl

@[simp] theorem State.perform_code (s : State) (e : Prim) : (s.perform e).code = s.code := by
  cases e <;> rfl

@[simp] theorem State.perform_cfg (s : State) (e : Prim) : (s.perform e).cfg = s.cfg := by
  cases e <;> rfl

@[simp] theorem State.perform_img (s : State) (e : Prim) : (s.perform e).img = s.img := by
  cases e <;> rfl

@[simp] theorem State.perform_trace (s : State) (e : Prim) : (s.perform e).trace = s.trace := by
  cases e <;> rfl

@[simp] theorem State.perform_params (s : State) (e : Prim) : (s.perform e).params = s.params := by
  cases e <;> rfl

@[simp] theorem State.perform_pinPath (s : State) (e : Prim) : (s.perform e).pinPath = s.pinPath := by
  cases e <;> rfl

@[simp] theorem State.perform_draws (s : State) (e : Prim) : (s.perform e).draws = s.draws := by
  cases e <;> rfl

@[simp] theorem State.perform_turns (s : State) (e : Prim) : (s.perform e).turns = s.turns := by
  cases e <;> rfl

@[simp] theorem State.perform_offer (s : State) (e : Prim) : (s.perform e).offer = s.offer := by
  cases e <;> rfl

@[simp] theorem State.perform_reply (s : State) (e : Prim) : (s.perform e).reply = s.reply := by
  cases e <;> rfl

@[simp] theorem State.perform_asm (s : State) (e : Prim) : (s.perform e).asm = s.asm := by
  cases e <;> rfl

/-! ### failPrim -/

@[simp] theorem State.failPrim_phase (s : State) (landed : Bool) (e : Prim) : (s.failPrim landed e).phase = s.phase := by
  cases e <;> rfl

@[simp] theorem State.failPrim_aCnt (s : State) (landed : Bool) (e : Prim) : (s.failPrim landed e).aCnt = s.aCnt := by
  cases e <;> rfl

@[simp] theorem State.failPrim_j (s : State) (landed : Bool) (e : Prim) : (s.failPrim landed e).j = s.j := by
  cases e <;> rfl

@[simp] theorem State.failPrim_w (s : State) (landed : Bool) (e : Prim) : (s.failPrim landed e).w = s.w := by
  cases e <;> rfl

@[simp] theorem State.failPrim_code (s : State) (landed : Bool) (e : Prim) : (s.failPrim landed e).code = s.code := by
  cases e <;> rfl

@[simp] theorem State.failPrim_cfg (s : State) (landed : Bool) (e : Prim) : (s.failPrim landed e).cfg = s.cfg := by
  cases e <;> rfl

@[simp] theorem State.failPrim_img (s : State) (landed : Bool) (e : Prim) : (s.failPrim landed e).img = s.img := by
  cases e <;> rfl

@[simp] theorem State.failPrim_trace (s : State) (landed : Bool) (e : Prim) : (s.failPrim landed e).trace = s.trace := by
  cases e <;> rfl

@[simp] theorem State.failPrim_params (s : State) (landed : Bool) (e : Prim) : (s.failPrim landed e).params = s.params := by
  cases e <;> rfl

@[simp] theorem State.failPrim_pinPath (s : State) (landed : Bool) (e : Prim) : (s.failPrim landed e).pinPath = s.pinPath := by
  cases e <;> rfl

@[simp] theorem State.failPrim_draws (s : State) (landed : Bool) (e : Prim) : (s.failPrim landed e).draws = s.draws := by
  cases e <;> rfl

@[simp] theorem State.failPrim_turns (s : State) (landed : Bool) (e : Prim) : (s.failPrim landed e).turns = s.turns := by
  cases e <;> rfl

@[simp] theorem State.failPrim_offer (s : State) (landed : Bool) (e : Prim) : (s.failPrim landed e).offer = s.offer := by
  cases e <;> rfl

@[simp] theorem State.failPrim_reply (s : State) (landed : Bool) (e : Prim) : (s.failPrim landed e).reply = s.reply := by
  cases e <;> rfl

@[simp] theorem State.failPrim_asm (s : State) (landed : Bool) (e : Prim) : (s.failPrim landed e).asm = s.asm := by
  cases e <;> rfl

end Sys2Proof.Machine
end

