-- ==== Sys2Proof/Laws/Ops.lean ====
section
/-! SUPPORT. One lemma for each shared operation, saying what it can do: the target's reaction to a drive, one event,
a list of events, the address advance, the drives of RESET. -/

namespace Sys2Proof.Machine

/-! ### The answers of the pin path -/

theorem State.answerAt_of_fields (s t : State) (k n : Nat) (hp : t.pinPath = s.pinPath.drop n)
    (hd : t.draws = s.draws + n) : t.answerAt k = s.answerAt (n + k) := by
  simp [State.answerAt, hp, hd, Nat.add_assoc]

/-- Answers known ahead to be `ok` are a witness of `answersOk`. -/
theorem State.answersOk_of_pinPath (s : State) (n : Nat) (h : s.pinPath = List.replicate n .ok) :
    s.answersOk n := by
  intro k hk
  simp [State.answerAt, h, hk]

/-- Answers known ahead, the last of them a rejection, are a witness of `rejectsFirst`. -/
theorem State.rejectsFirst_of_pinPath (s : State) (n : Nat) (landed : Bool)
    (h : s.pinPath = List.replicate n .ok ++ [.fail landed]) : s.rejectsFirst n landed := by
  refine ⟨fun k hk => ?_, ?_⟩
  · simp [State.answerAt, h, List.getElem?_append, hk]
  · simp [State.answerAt, h]

theorem State.answersOk_head {s : State} {n : Nat} (h : s.answersOk (n + 1)) : s.answerAt 0 = .ok :=
  h 0 (by omega)

/-! ### The target's reaction -/

/-- A drive of a line to the level it holds leaves `SR` alone (R34). -/
theorem State.srAfter_same (s : State) (p : Line) (v : Bool) (h : s.lines.get p = v) : s.srAfter p v = s.sr := by
  have hs (e : ShiftEdge) (b : Bool) : shifts e b b = false := by cases e <;> cases b <;> rfl
  unfold State.srAfter
  split
  · rename_i hc
    obtain ⟨rfl, hc⟩ := hc
    subst h
    exact absurd hc (by simp [Lines.get, hs])
  · rfl

/-- The outputs after every event are the register where they follow it (20_memory.md R37). -/
theorem State.qSettled_of_outputsFollow (s : State) (h : s.outputsFollow) : s.qSettled = s.q := by
  unfold State.qSettled
  split
  · rename_i hc
    exact (h hc.1 hc.2).symm
  · rfl

/-- A drive of a line to the level it holds changes nothing of the state (R43). -/
theorem State.setLine_same (s : State) (p : Line) (v : Bool) (h : s.lines.get p = v) : s.setLine p v = s := by
  have hl : s.lines.set p v = s.lines := by rw [← h, Lines.set_get]
  have hr : ¬(s.params.latchMode = .edge ∧ p = .latch ∧ s.lines.latch = false ∧ v = true) := by
    rintro ⟨-, rfl, h1, h2⟩
    rw [← h] at h2
    exact absurd (h1.symm.trans h2) (by decide)
  have hm : s.movesWrite p v = false := by simp [State.movesWrite, h]
  simp [State.setLine, hl, hr, hm, s.srAfter_same p v h]

/-- The event of a drive to the level the line holds leaves the target as after any event that changes no line. -/
theorem State.drive_same (s : State) (p : Line) (v : Bool) (h : s.lines.get p = v) : s.drive p v = s.settle := by
  have hl : s.lines.set p v = s.lines := by rw [← h, Lines.set_get]
  have hm : s.movesWrite p v = false := by simp [State.movesWrite, h]
  simp [State.drive, State.settle, State.qAfter, State.mAfter, s.setLine_same p v h, hl, hm, s.srAfter_same p v h]

/-- After the event of a drive the outputs follow the register (20_memory.md R37). -/
theorem State.drive_outputsFollow (s : State) (p : Line) (v : Bool) : (s.drive p v).outputsFollow := by
  intro h1 h2
  exact if_pos ⟨h1, h2⟩

/-- After an event that changes no line too. -/
theorem State.settle_outputsFollow (s : State) : s.settle.outputsFollow := by
  intro h1 h2
  exact if_pos ⟨h1, h2⟩

/-- The memory after an event: as it was, or with the addressed cell at `Q` (20_memory.md R38). -/
theorem State.mSettled_cases (s : State) :
    (s.lines.weN = true ∧ s.mSettled = s.m)
      ∨ (s.lines.weN = false ∧ s.mSettled = Memory.write s.m s.cell s.qSettled) := by
  unfold State.mSettled
  split
  · rename_i h
    exact .inl ⟨h, rfl⟩
  · rename_i h
    exact .inr ⟨Bool.eq_false_iff.2 h, rfl⟩

/-- The memory after a drive: as it was, or with the addressed cell at `Q`, or with the two cells of an address move
at free values (20_memory.md R38, R39). -/
theorem State.mAfter_cases (s : State) (p : Line) (v : Bool) :
    ((s.lines.set p v).weN = true ∧ s.mAfter p v = s.m)
      ∨ ((s.lines.set p v).weN = false ∧ (s.lines.get p = v ∨ isAddressLine p = false)
        ∧ s.mAfter p v = Memory.write s.m (s.lines.set p v).address.toNat (s.qAfter p v))
      ∨ ((s.lines.set p v).weN = false ∧ s.lines.get p ≠ v ∧ isAddressLine p = true
        ∧ s.mAfter p v = Memory.write (Memory.write s.m s.cell (Config.cellLeft s.draws))
          (s.lines.set p v).address.toNat (Config.cellEntered s.draws)) := by
  unfold State.mAfter
  split
  · rename_i h
    have h' := h
    simp only [State.movesWrite, Bool.and_eq_true, decide_eq_true_eq, Bool.not_eq_true'] at h'
    exact .inr (.inr ⟨h'.2, h'.1.2, h'.1.1, by simp [State.setLine, h]⟩)
  · rename_i h
    have hm : (s.setLine p v).m = s.m := by simp [State.setLine, h]
    rcases (s.setLine p v).mSettled_cases with ⟨hw, he⟩ | ⟨hw, he⟩
    · exact .inl ⟨hw, he.trans hm⟩
    · refine .inr (.inl ⟨hw, ?_, by rw [he, hm]; rfl⟩)
      by_contra hc
      obtain ⟨hv, ha⟩ := not_or.1 hc
      have hw : (s.lines.set p v).weN = false := hw
      exact h (by simp [State.movesWrite, hv, hw, Bool.not_eq_false _ ▸ ha])

/-- The target's reaction after an event keeps the canonical form of the memory. -/
theorem State.settle_wf (s : State) (h : Memory.wf s.m = true) : Memory.wf s.settle.m = true := by
  rcases s.mSettled_cases with ⟨-, he⟩ | ⟨-, he⟩ <;> rw [State.settle_m, he]
  · exact h
  · exact Memory.wf_write _ _ _ h (Lines.address_lt _)

/-- A drive keeps the canonical form of the memory. -/
theorem State.drive_wf (s : State) (p : Line) (v : Bool) (h : Memory.wf s.m = true) :
    Memory.wf (s.drive p v).m = true := by
  rw [State.drive_m]
  rcases s.mAfter_cases p v with ⟨-, hm⟩ | ⟨-, -, hm⟩ | ⟨-, -, -, hm⟩ <;> rw [hm]
  · exact h
  · exact Memory.wf_write _ _ _ h (Lines.address_lt _)
  · exact Memory.wf_write _ _ _ (Memory.wf_write _ _ _ h (Lines.address_lt _)) (Lines.address_lt _)

/-- A cell that is neither the addressed one before a drive nor the addressed one after it reads as before. -/
theorem State.drive_readCell_other (s : State) (p : Line) (v : Bool) (b : Nat) (h1 : b ≠ s.cell)
    (h2 : b ≠ (s.drive p v).cell) : (s.drive p v).readCell b = s.readCell b := by
  have h2 : b ≠ (s.lines.set p v).address.toNat := h2
  simp only [State.readCell, State.drive_m]
  rcases s.mAfter_cases p v with ⟨-, hm⟩ | ⟨-, -, hm⟩ | ⟨-, -, -, hm⟩ <;> rw [hm]
  · rw [Memory.read_write_other _ _ _ _ h2]
  · rw [Memory.read_write_other _ _ _ _ h2, Memory.read_write_other _ _ _ _ h1]

/-- With the write enable inactive after a drive, no cell changes (20_memory.md R38). -/
theorem State.drive_m_of_weN (s : State) (p : Line) (v : Bool) (h : (s.lines.set p v).weN = true) :
    (s.drive p v).m = s.m := by
  rcases s.mAfter_cases p v with ⟨-, hm⟩ | ⟨hw, -⟩ | ⟨hw, -⟩
  · exact hm
  · exact absurd (h.symm.trans hw) (by decide)
  · exact absurd (h.symm.trans hw) (by decide)

/-- Only a drive of CLK can shift the register (20_memory.md R33, R34). -/
theorem State.drive_sr_other (s : State) (p : Line) (v : Bool) (h : p ≠ .clk) : (s.drive p v).sr = s.sr := by
  simp [State.srAfter, h]

/-! ### One event -/

@[simp] theorem State.perform_set (s : State) (p : Line) (v : Bool) :
    s.perform (.set p v) = (s.drive p v).pass 0 := rfl

@[simp] theorem State.perform_wait (s : State) (d : DelaySel) :
    s.perform (.wait d) = s.settle.pass (s.cfg.delay d) := rfl

@[simp] theorem State.failPrim_set (s : State) (landed : Bool) (p : Line) (v : Bool) :
    s.failPrim landed (.set p v) = (s.drive p (if landed then v else s.lines.get p)).pass 0 := rfl

@[simp] theorem State.failPrim_wait (s : State) (landed : Bool) (d : DelaySel) :
    s.failPrim landed (.wait d) = s.settle.pass 0 := rfl

/-- What an accepted event leaves alone: everything but the lines, the target, the ghosts and the draws. -/
theorem State.accept_frame (s : State) (e : Prim) :
    SameRegisters s (s.accept e) ∧ SameHost s (s.accept e)
      ∧ (s.accept e).trace = s.trace ++ [⟨e.event s.cfg, true⟩]
      ∧ (s.accept e).pinPath = s.pinPath.tail ∧ (s.accept e).draws = s.draws + 1 := by
  simp [State.accept, SameRegisters, SameHost]

/-- Taking HardwareIOError: the fault's registers as R113, R115 and R121 say, and nothing else. -/
theorem State.ioError_cases (s : State) (a : BitVec 5) (j : BitVec 6) :
    (s.phase = .fault ∧ s.ioError a j = s)
      ∨ (s.phase ≠ .fault ∧ s.ioError a j = s.raiseFault codeHardwareIOError a j) := by
  unfold State.ioError
  split
  · rename_i h
    exact .inl ⟨h, rfl⟩
  · rename_i h
    exact .inr ⟨h, rfl⟩

/-- A rejected event up to the fault it raises: what it leaves on the lines, and its record. -/
theorem State.reject_eq (s : State) (landed : Bool) (e : Prim) :
    s.reject landed e = (((s.failPrim landed e).record (e.event s.cfg) false).spend).ioError s.aCnt s.j := rfl

/-- What a rejected event leaves: the fault at the present position, and otherwise the frame of an event. -/
theorem State.reject_frame (s : State) (landed : Bool) (e : Prim) :
    FaultsHere s (s.reject landed e) ∧ (s.reject landed e).w = s.w
      ∧ (s.reject landed e).cfg = s.cfg ∧ (s.reject landed e).img = s.img ∧ SameHost s (s.reject landed e)
      ∧ (s.reject landed e).trace = s.trace ++ [⟨e.event s.cfg, false⟩]
      ∧ (s.reject landed e).draws = s.draws + 1 := by
  rw [State.reject_eq]
  rcases State.ioError_cases (((s.failPrim landed e).record (e.event s.cfg) false).spend) s.aCnt s.j with
    ⟨hf, h⟩ | ⟨hf, h⟩ <;> rw [h]
  · have hf : s.phase = .fault := by simpa using hf
    simp [FaultsHere, SameHost, hf]
  · have hf : s.phase ≠ .fault := by simpa using hf
    simp [FaultsHere, SameHost, hf, codeHardwareIOError]

/-- A rejected event leaves the lines and the target as its drive, or its wait, left them. -/
theorem State.reject_target (s : State) (landed : Bool) (e : Prim) :
    (s.reject landed e).lines = (s.failPrim landed e).lines ∧ (s.reject landed e).sr = (s.failPrim landed e).sr
      ∧ (s.reject landed e).q = (s.failPrim landed e).q ∧ (s.reject landed e).m = (s.failPrim landed e).m := by
  rw [State.reject_eq]
  rcases State.ioError_cases (((s.failPrim landed e).record (e.event s.cfg) false).spend) s.aCnt s.j with
    ⟨-, h⟩ | ⟨-, h⟩ <;> rw [h] <;> exact ⟨rfl, rfl, rfl, rfl⟩

/-- An event is accepted or rejected, as the pin path answers. -/
theorem State.attempt_cases (s : State) (e : Prim) :
    (s.answerAt 0 = .ok ∧ s.attempt e = (s.accept e, true))
      ∨ ∃ landed, s.answerAt 0 = .fail landed ∧ s.attempt e = (s.reject landed e, false) := by
  unfold State.attempt
  split
  · rename_i h
    exact .inl ⟨h, rfl⟩
  · rename_i landed h
    exact .inr ⟨landed, h, rfl⟩

theorem State.attempt_ok (s : State) (e : Prim) (h : s.answerAt 0 = .ok) : s.attempt e = (s.accept e, true) := by
  simp [State.attempt, h]

theorem State.attempt_fail (s : State) (e : Prim) (landed : Bool) (h : s.answerAt 0 = .fail landed) :
    s.attempt e = (s.reject landed e, false) := by
  simp [State.attempt, h]

/-- The answers to the events after an accepted one are those that were to follow it. -/
theorem State.accept_answerAt (s : State) (e : Prim) (k : Nat) : (s.accept e).answerAt k = s.answerAt (k + 1) := by
  obtain ⟨-, -, -, hp, hd⟩ := s.accept_frame e
  rw [State.answerAt_of_fields s (s.accept e) k 1 (by rw [hp]; simp) hd, Nat.add_comm]

theorem State.answersOk_accept {s : State} {n : Nat} (h : s.answersOk (n + 1)) (e : Prim) :
    (s.accept e).answersOk n := fun k hk => by
  rw [State.accept_answerAt]
  exact h (k + 1) (by omega)

theorem State.rejectsFirst_accept {s : State} {n : Nat} {landed : Bool} (h : s.rejectsFirst (n + 1) landed)
    (e : Prim) : (s.accept e).rejectsFirst n landed :=
  ⟨State.answersOk_accept h.1 e, by rw [State.accept_answerAt]; exact h.2⟩

theorem State.accept_wf (s : State) (e : Prim) (h : Memory.wf s.m = true) : Memory.wf (s.accept e).m = true := by
  cases e with
  | set p v => exact s.drive_wf p v h
  | wait d => exact s.settle_wf h

theorem State.reject_wf (s : State) (landed : Bool) (e : Prim) (h : Memory.wf s.m = true) :
    Memory.wf (s.reject landed e).m = true := by
  rw [(s.reject_target landed e).2.2.2]
  cases e with
  | set p v => exact s.drive_wf p _ h
  | wait d => exact s.settle_wf h

/-! ### A list of events -/

@[simp] theorem State.acceptAll_nil (s : State) : s.acceptAll [] = s := rfl

@[simp] theorem State.acceptAll_cons (s : State) (e : Prim) (rest : List Prim) :
    s.acceptAll (e :: rest) = (s.accept e).acceptAll rest := rfl

theorem State.acceptAll_append (s : State) (l r : List Prim) :
    s.acceptAll (l ++ r) = (s.acceptAll l).acceptAll r := by
  induction l generalizing s with
  | nil => rfl
  | cons e l ih => exact ih (s.accept e)

/-- With every event accepted, a list of events is the events one after another, and none is rejected. -/
theorem State.runPrims_ok (s : State) (k : Nat) (es : List Prim) (h : s.answersOk es.length) :
    s.runPrims k es = (s.acceptAll es, none) := by
  induction es generalizing s k with
  | nil => rfl
  | cons e rest ih =>
    unfold State.runPrims
    rw [State.attempt_ok s e (State.answersOk_head h)]
    exact ih (s.accept e) (k + 1) (State.answersOk_accept h e)

/-- With the event of index `n` the first rejected one, the events before it are accepted and it is the last. -/
theorem State.runPrims_reject (s : State) (k n : Nat) (landed : Bool) (es : List Prim) (e : Prim)
    (h : s.rejectsFirst n landed) (he : es[n]? = some e) :
    s.runPrims k es = ((s.acceptAll (es.take n)).reject landed e, some (k + n)) := by
  induction es generalizing s k n with
  | nil => simp at he
  | cons e' rest ih =>
    unfold State.runPrims
    cases n with
    | zero =>
      obtain rfl : e' = e := by simpa using he
      rw [State.attempt_fail s e' landed h.2]
      rfl
    | succ n =>
      rw [State.attempt_ok s e' (State.answersOk_head h.1)]
      have := ih (s.accept e') (k + 1) n (State.rejectsFirst_accept h e') (by simpa using he)
      simpa [Nat.add_assoc, Nat.add_comm 1 n] using this

/-- What a list of accepted events leaves alone, and what it records. -/
theorem State.acceptAll_frame (s : State) (es : List Prim) :
    SameRegisters s (s.acceptAll es) ∧ SameHost s (s.acceptAll es)
      ∧ (s.acceptAll es).trace = s.trace ++ accepted s.cfg es
      ∧ (s.acceptAll es).pinPath = s.pinPath.drop es.length ∧ (s.acceptAll es).draws = s.draws + es.length := by
  induction es generalizing s with
  | nil => exact ⟨⟨rfl, rfl, rfl, rfl, rfl, rfl, rfl⟩, ⟨rfl, rfl, rfl, rfl, rfl⟩, by simp [accepted], rfl, rfl⟩
  | cons e rest ih =>
    obtain ⟨⟨r1, r2, r3, r4, r5, r6, r7⟩, ⟨h1, h2, h3, h4, h5⟩, ht, hp, hd⟩ := s.accept_frame e
    obtain ⟨⟨q1, q2, q3, q4, q5, q6, q7⟩, ⟨g1, g2, g3, g4, g5⟩, gt, gp, gd⟩ := ih (s.accept e)
    refine ⟨⟨q1.trans r1, q2.trans r2, q3.trans r3, q4.trans r4, q5.trans r5, q6.trans r6, q7.trans r7⟩,
      ⟨g1.trans h1, g2.trans h2, g3.trans h3, g4.trans h4, g5.trans h5⟩, ?_, ?_, ?_⟩
    · simp only [State.acceptAll_cons, gt, ht, r6, accepted]
      simp
    · simp only [State.acceptAll_cons, gp, hp, List.length_cons]
      simp
    · simp only [State.acceptAll_cons, gd, hd, List.length_cons]
      omega

theorem State.acceptAll_wf (s : State) (es : List Prim) (h : Memory.wf s.m = true) :
    Memory.wf (s.acceptAll es).m = true := by
  induction es generalizing s with
  | nil => exact h
  | cons e rest ih => exact ih (s.accept e) (s.accept_wf e h)

/-- A list of events either performs all of them, or stops at the first rejected one: everything `runPrims` can do. -/
theorem State.runPrims_cases (s : State) (k : Nat) (es : List Prim) :
    s.runPrims k es = (s.acceptAll es, none)
      ∨ ∃ n e landed, es[n]? = some e
        ∧ s.runPrims k es = ((s.acceptAll (es.take n)).reject landed e, some (k + n)) := by
  induction es generalizing s k with
  | nil => exact .inl rfl
  | cons e rest ih =>
    unfold State.runPrims
    rcases s.attempt_cases e with ⟨-, h⟩ | ⟨landed, -, h⟩ <;> rw [h]
    · rcases ih (s.accept e) (k + 1) with h | ⟨n, e', landed, he, h⟩
      · exact .inl h
      · refine .inr ⟨n + 1, e', landed, by simpa using he, ?_⟩
        simpa [Nat.add_assoc, Nat.add_comm 1 n] using h
    · exact .inr ⟨0, e, landed, rfl, rfl⟩

/-! ### The address advance -/

/-- The position after an accepted event: the next event, the next address, or DONE (45_load_sequencer.md R103). -/
theorem State.advance_cases (s : State) :
    (s.j.toNat + 1 ≠ s.cfg.eventCount ∧ s.advance = { s with j := s.j + 1 })
      ∨ (s.j.toNat + 1 = s.cfg.eventCount ∧ s.aCnt.toNat + 1 ≠ 16
        ∧ s.advance = { s with j := 0, aCnt := s.aCnt + 1 })
      ∨ (s.j.toNat + 1 = s.cfg.eventCount ∧ s.aCnt.toNat + 1 = 16
        ∧ s.advance = { s with j := 0, aCnt := s.aCnt + 1, phase := .done }) := by
  unfold State.advance
  split
  · rename_i h
    split
    · rename_i h'
      exact .inr (.inr ⟨h, h', rfl⟩)
    · rename_i h'
      exact .inr (.inl ⟨h, h', rfl⟩)
  · rename_i h
    exact .inl ⟨h, rfl⟩

/-! ### The drives of RESET -/

@[simp] theorem State.driveAll_nil (s : State) : s.driveAll [] = s := rfl

@[simp] theorem State.driveAll_cons (s : State) (p : Line) (v : Bool) (rest : List (Line × Bool)) :
    s.driveAll ((p, v) :: rest) = (s.drive p v).driveAll rest := rfl

/-- The drives of RESET end with the lines at their reset levels, whatever they were (70_reset_and_hazards.md R130). -/
theorem State.driveAll_resetDrives_lines (s : State) : (s.driveAll resetDrives).lines = .reset := rfl

/-- Drives that never activate the write enable change no cell. -/
theorem State.driveAll_m (s : State) (l : List (Line × Bool))
    (h : ∀ t : State, ∀ e ∈ l, t.lines.weN = true → (t.lines.set e.1 e.2).weN = true) (hw : s.lines.weN = true) :
    (s.driveAll l).m = s.m := by
  induction l generalizing s with
  | nil => rfl
  | cons e l ih =>
    have he := h s e List.mem_cons_self hw
    rw [State.driveAll_cons, ih (s.drive e.1 e.2) (fun t e' h' => h t e' (List.mem_cons_of_mem _ h')) he,
      State.drive_m_of_weN s e.1 e.2 he]

/-- The first drive of RESET ends the write, so no drive of RESET changes a cell (70_reset_and_hazards.md R130). -/
theorem State.driveAll_resetDrives_m (s : State) : (s.driveAll resetDrives).m = s.m := by
  have hfirst : (s.drive .weN true).m = s.m := s.drive_m_of_weN .weN true rfl
  unfold resetDrives
  rw [State.driveAll_cons, State.driveAll_m (s.drive .weN true) _ ?_ rfl, hfirst]
  intro t e he hw
  simp only [List.mem_cons, List.not_mem_nil, or_false] at he
  rcases he with rfl | rfl | rfl | rfl | rfl | rfl | rfl <;> exact hw

end Sys2Proof.Machine
end

