-- ==== Sys2Proof/Laws/Step.lean ====
section
/-! SUPPORT. What a step can do: every instruction answers a next state, the sequencer's step by cases, and the inversion of a
step by its turn. -/

namespace Sys2Proof.Machine

/-- The state an instruction leaves. -/
def execState (i : Instr) (s : State) : State :=
  match exec i s with
  | .next t => t
  | .fault _ => s
  | .refused _ => s

/-- Every instruction answers a next state, from every state: no meaning faults or refuses. -/
theorem exec_next (i : Instr) (s : State) : exec i s = .next (execState i s) := by
  cases i <;> rfl

/-- The start of the sequencer's step reads the word at `J = 0` and changes nothing else (45_load_sequencer.md R102). -/
theorem State.beginEvent_eq (s : State) :
    s.beginEvent = { s with w := if s.j = 0 then imgRead s.img s.address else s.w } := by
  unfold State.beginEvent
  split <;> rfl

/-- The sequencer's step in RUN, within the image and the event list. -/
theorem sequencerStep_run (s : State) (e : Prim) (hp : s.phase = .run) (ha : s.aCnt.toNat < 16)
    (he : (eventList s.address s.beginEvent.w s.cfg)[s.j.toNat]? = some e) :
    sequencerStep s = .next (afterSequencerEvent (s.beginEvent.attempt e)) := by
  simp [sequencerStep, hp, ha, he]

/-- Outside RUN the sequencer waits (45_load_sequencer.md R109). -/
theorem sequencerStep_wait (s : State) (hp : s.phase ≠ .run) : sequencerStep s = .next s := by
  unfold sequencerStep
  split
  · rename_i h
    exact absurd h hp
  · rfl
  · rfl
  · rfl

/-- Everything the sequencer's step can answer with a next state: it waits, or it performs the event at its position,
which is accepted or rejected. -/
theorem sequencerStep_cases {s t : State} (h : sequencerStep s = .next t) :
    (s.phase ≠ .run ∧ t = s)
      ∨ (s.phase = .run ∧ s.aCnt.toNat < 16 ∧ s.j.toNat < s.cfg.eventCount
        ∧ ∃ e, (eventList s.address s.beginEvent.w s.cfg)[s.j.toNat]? = some e
          ∧ (t = (s.beginEvent.accept e).advance
            ∨ ∃ landed, t = (s.beginEvent.reject landed e)
              ∨ t = (s.beginEvent.reject landed e).loseShift)) := by
  by_cases hp : s.phase = .run
  · right
    simp only [sequencerStep, hp] at h
    split at h
    · rename_i ha
      split at h
      · rename_i e he
        have hlt : s.j.toNat < s.cfg.eventCount := by
          have := (List.getElem?_eq_some_iff.1 he).1
          simpa using this
        refine ⟨hp, ha, hlt, e, he, ?_⟩
        rcases s.beginEvent.attempt_cases e with ⟨-, ho⟩ | ⟨landed, -, ho⟩ <;> rw [ho] at h
        · exact .inl (by simpa [afterSequencerEvent] using h.symm)
        · refine .inr ⟨landed, ?_⟩
          simp only [afterSequencerEvent] at h
          split at h
          · exact .inr (by simpa using h.symm)
          · exact .inl (by simpa using h.symm)
      · cases h
    · cases h
  · left
    rw [sequencerStep_wait s hp] at h
    exact ⟨hp, by simpa using h.symm⟩

/-- Everything a step can be when it answers a next state: the sequencer's move, an instruction run, a turn of the
host that touches only its own side. -/
theorem step_cases {s t : State} (h : step s = .next t) :
    (s.turns = [] ∧ sequencerStep s = .next t)
      ∨ ∃ turn rest, s.turns = turn :: rest ∧
        ((turn = .sequencer ∧ sequencerStep { s with turns := rest } = .next t)
          ∨ (∃ f b i, turn = .code f b ∧ decode f b = .instr i ∧ ¬(s.phase = .run ∧ usesPinPath i = true)
            ∧ exec i { s with turns := rest } = .next t)
          ∨ (∃ f b k i, turn = .codeThenReset f b k ∧ decode f b = .instr i
            ∧ ¬(s.phase = .run ∧ usesPinPath i = true) ∧ execThenReset i k { s with turns := rest } = .next t)
          ∨ (∃ text i, turn = .line text
            ∧ parseLine s.params.extraTokens (s.asm.entries.length + 1) text = .instr i
            ∧ exec i { s with turns := rest } = .next t)
          ∨ ∃ asm offer, t = { s with turns := rest, asm := asm, offer := offer }) := by
  unfold step at h
  split at h
  · rename_i ht
    exact .inl ⟨ht, h⟩
  · rename_i turn rest ht
    refine .inr ⟨turn, rest, ht, ?_⟩
    cases turn with
    | sequencer => exact .inl ⟨rfl, h⟩
    | code f b =>
      simp only [takeTurn, State.issue] at h
      cases hd : decode f b with
      | invalid e => simp [hd] at h
      | instr i =>
        simp only [hd] at h
        by_cases hu : s.phase = .run ∧ usesPinPath i = true
        · simp [hu] at h
        · simp only [hu, if_false] at h
          exact .inr (.inl ⟨f, b, i, rfl, hd, hu, h⟩)
    | codeThenReset f b k =>
      simp only [takeTurn, State.issue] at h
      cases hd : decode f b with
      | invalid e => simp [hd] at h
      | instr i =>
        simp only [hd] at h
        by_cases hu : s.phase = .run ∧ usesPinPath i = true
        · simp [hu] at h
        · simp only [hu, if_false] at h
          exact .inr (.inr (.inl ⟨f, b, k, i, rfl, hd, hu, h⟩))
    | offer d => exact .inr (.inr (.inr (.inr ⟨s.asm, d, by simpa [takeTurn] using h.symm⟩)))
    | beginListing c =>
      exact .inr (.inr (.inr (.inr ⟨_, s.offer, by simpa [takeTurn, State.beginListing] using h.symm⟩)))
    | line text =>
      simp only [takeTurn, State.readLine] at h
      split at h
      · rename_i i hi
        split at hi
        · cases hi
        · split at hi
          · rename_i i' hp
            obtain rfl : i' = i := by simpa using hi
            exact .inr (.inr (.inr (.inl ⟨text, i', rfl, hp, h⟩)))
          · cases hi
      · rename_i s' hs
        have ht' : s' = t := by simpa using h
        refine .inr (.inr (.inr (.inr ?_)))
        split at hs
        · exact ⟨s.asm, s.offer, by rw [← ht']; simpa using hs.symm⟩
        · split at hs
          · cases hs
          · exact ⟨_, s.offer, by rw [← ht']; simpa [State.asmFail] using hs.symm⟩
    | endListing =>
      refine .inr (.inr (.inr (.inr ?_)))
      have h : ({ s with turns := rest } : State).endListing = t := by simpa [takeTurn] using h
      unfold State.endListing at h
      split at h
      · exact ⟨s.asm, s.offer, h.symm⟩
      · split at h
        · exact ⟨_, _, h.symm⟩
        · exact ⟨_, s.offer, h.symm⟩

/-- The memory of the reset state is in canonical form. -/
theorem State.reset_wf : Memory.wf State.reset.m = true := rfl

/-- The sequencer's step keeps the memory's canonical form. -/
theorem sequencerStep_wf {s t : State} (h : sequencerStep s = .next t) (hm : Memory.wf s.m = true) :
    Memory.wf t.m = true := by
  have hb : Memory.wf s.beginEvent.m = true := by
    unfold State.beginEvent
    split <;> exact hm
  rcases sequencerStep_cases h with ⟨-, rfl⟩ | ⟨-, -, -, e, -, rfl | ⟨landed, rfl | rfl⟩⟩
  · exact hm
  · have := s.beginEvent.accept_wf e hb
    rcases (s.beginEvent.accept e).advance_cases with ⟨-, h⟩ | ⟨-, -, h⟩ | ⟨-, -, h⟩ <;> rw [h] <;> exact this
  · exact s.beginEvent.reject_wf landed e hb
  · exact s.beginEvent.reject_wf landed e hb

/-- An event keeps the memory's canonical form, accepted or rejected. -/
theorem State.attempt_wf (s : State) (e : Prim) (hm : Memory.wf s.m = true) : Memory.wf (s.attempt e).1.m = true := by
  rcases s.attempt_cases e with ⟨-, h⟩ | ⟨landed, -, h⟩ <;> rw [h]
  · exact s.accept_wf e hm
  · exact s.reject_wf landed e hm

/-- A list of events keeps the memory's canonical form, however it ends. -/
theorem State.runPrims_wf (s : State) (k : Nat) (es : List Prim) (hm : Memory.wf s.m = true) :
    Memory.wf (s.runPrims k es).1.m = true := by
  rcases s.runPrims_cases k es with h | ⟨n, e, landed, -, h⟩ <;> rw [h]
  · exact s.acceptAll_wf es hm
  · exact State.reject_wf _ landed e (s.acceptAll_wf _ hm)

/-- RESET keeps the memory's canonical form: it changes no cell. -/
theorem State.resetWith_wf (s : State) (b : Bool) (hm : Memory.wf s.m = true) :
    Memory.wf (s.resetWith b).m = true := by
  show Memory.wf (s.driveAll resetDrives).m = true
  rw [State.driveAll_resetDrives_m]
  exact hm

/-- Every instruction keeps the memory's canonical form. -/
theorem exec_wf (i : Instr) (s : State) (hm : Memory.wf s.m = true) : Memory.wf (execState i s).m = true := by
  cases i with
  | setpin p v => exact s.attempt_wf _ hm
  | wait d => exact s.attempt_wf _ hm
  | addrsel a => exact s.runPrims_wf 0 _ hm
  | shbegin => exact s.runPrims_wf 0 _ hm
  | shbit b => exact s.runPrims_wf 0 _ hm
  | latch => exact s.runPrims_wf 0 _ hm
  | wrpulse => exact s.runPrims_wf 0 _ hm
  | gap => exact s.runPrims_wf 0 _ hm
  | shiftout o =>
    have h := s.runPrims_wf 0 (shiftoutPrims s.w o) hm
    simp only [execState, exec, execShiftout]
    generalize s.runPrims 0 (shiftoutPrims s.w o) = r at h ⊢
    obtain ⟨t, _ | k⟩ := r
    · exact h
    · simp only [afterShiftout]
      split <;> exact h
  | loadword a =>
    have h := (s.fetchWord a).runPrims_wf 0 (eventList a (imgRead s.img a) s.cfg) hm
    simp only [execState, exec, execLoadword]
    generalize (s.fetchWord a).runPrims 0 (eventList a (imgRead s.img a) s.cfg) = r at h ⊢
    obtain ⟨t, _ | k⟩ := r
    · simp only [afterLoadword]
      split <;> exact h
    · have hs : Memory.wf (t.stopLoadword s.phase a k).m = true := by
        unfold State.stopLoadword
        split <;> exact h
      simp only [afterLoadword]
      split <;> exact hs
  | load o =>
    simp only [execState, exec, execLoad]
    split
    · exact hm
    · split <;> exact hm
  | reset => exact s.resetWith_wf _ hm
  | nop => exact hm
  | lda x => exact hm
  | add x => exact hm
  | sub x => exact hm
  | sta x => exact hm
  | ldi x => exact hm
  | jmp x => exact hm
  | jc x => exact hm
  | jz x => exact hm
  | out => exact hm
  | hlt => exact hm
  | literal v => exact hm
  | readStatus => exact hm

/-! ### An operation that RESET stops -/

/-- An instruction with RESET after its first `k` events answers a RESET of the state they leave. -/
theorem execThenReset_next (i : Instr) (k : Nat) (s : State) :
    execThenReset i k s
      = .next (if usesPinPath i = true then s.abandon i k else (execState i s).resetBlock) := by
  unfold execThenReset
  split
  · rfl
  · rw [exec_next]

/-- Everything an abandoned operation can be: RESET after its first `k` events, each accepted, or after the first of
them that the pin path rejects. -/
theorem State.abandon_cases (s : State) (i : Instr) (k : Nat) :
    s.abandon i k = (s.acceptAll ((opEvents s i).take k)).resetWith (opAborts s.cfg k i)
      ∨ ∃ n e landed, n < k ∧ (opEvents s i)[n]? = some e
        ∧ s.abandon i k
          = ((s.acceptAll ((opEvents s i).take n)).reject landed e).resetWith (opAborts s.cfg n i) := by
  unfold State.abandon
  rcases s.runPrims_cases 0 ((opEvents s i).take k) with h | ⟨n, e, landed, he, h⟩ <;> rw [h]
  · exact .inl rfl
  · have hn : n < k := by
      have := (List.getElem?_eq_some_iff.1 he).1
      simp only [List.length_take] at this
      omega
    rw [List.getElem?_take_of_lt hn] at he
    refine .inr ⟨n, e, landed, hn, he, ?_⟩
    simp [List.take_take, Nat.min_eq_left hn.le]

/-- An abandoned operation keeps the memory's canonical form. -/
theorem State.abandon_wf (s : State) (i : Instr) (k : Nat) (hm : Memory.wf s.m = true) :
    Memory.wf (s.abandon i k).m = true := by
  rcases s.abandon_cases i k with h | ⟨n, e, landed, -, -, h⟩ <;> rw [h]
  · exact State.resetWith_wf _ _ (s.acceptAll_wf _ hm)
  · exact State.resetWith_wf _ _ (State.reject_wf _ _ _ (s.acceptAll_wf _ hm))

end Sys2Proof.Machine
end

