-- ==== Sys2Proof/Laws/Assembler.lean ====
section
/-! SUPPORT. The assembler: a line that parses is a payload instruction, whose execution adds its one entry; and the pure
function by its lines. -/

namespace Sys2Proof.Machine

/-- A payload instruction adds its entry and does nothing else (40_image_assembly.md R66 to R77). -/
theorem exec_payload (i : Instr) (s : State) (e : Entry) (h : entryOf s.params.hexCase i = some e) :
    exec i s = .next (s.emit e) := by
  cases i <;> first | (cases h; rfl) | cases h

theorem bareMnemonic_entry (m : List Char) (i : Instr) (h : HexCase) (hm : bareMnemonic m = some i) :
    (entryOf h i).isSome = true := by
  unfold bareMnemonic at hm
  split_ifs at hm <;> cases hm <;> rfl

theorem operandMnemonic_entry (m : List Char) (f : Nibble → Instr) (x : Nibble) (h : HexCase)
    (hm : operandMnemonic m = some f) : (entryOf h (f x)).isSome = true := by
  unfold operandMnemonic at hm
  split_ifs at hm <;> cases hm <;> rfl

/-- The check of extra tokens passes the instruction on, or makes the line malformed (R65). -/
theorem extraTokenCheck_instr {policy : ExtraTokenPolicy} {extra : List (List Char)} {n : Nat} {i i' : Instr}
    (h : extraTokenCheck policy extra n i = .instr i') : i = i' := by
  unfold extraTokenCheck at h
  split at h
  · exact Parsed.instr.inj h
  · split at h
    · exact Parsed.instr.inj h
    · cases h

/-- A line that parses is a payload instruction: it has an image entry. -/
theorem parseLine_entry (policy : ExtraTokenPolicy) (n : Nat) (line : List Char) (i : Instr) (h : HexCase)
    (hp : parseLine policy n line = .instr i) : ∃ e, entryOf h i = some e := by
  unfold parseLine at hp
  split at hp
  · cases hp
  · split at hp
    · rename_i i' hb
      obtain rfl := Parsed.instr.inj hp
      exact Option.isSome_iff_exists.1 (bareMnemonic_entry _ _ h hb)
    · split at hp
      · rename_i f hf
        unfold parseOperand at hp
        split at hp
        · cases hp
        · split at hp
          · cases hp
          · obtain rfl := extraTokenCheck_instr hp
            exact Option.isSome_iff_exists.1 (operandMnemonic_entry _ _ _ h hf)
      · unfold parseLiteral at hp
        split at hp
        · cases hp
        · obtain rfl := extraTokenCheck_instr hp
          exact ⟨_, rfl⟩

@[simp] theorem assembleFrom_nil (p : Params) (out : List Entry) : assembleFrom p out [] = finishImage out := rfl

/-- The next line parses: its entry goes to the end of the image. -/
theorem assembleFrom_instr (p : Params) (out : List Entry) (line : List Char) (rest : List (List Char)) (i : Instr)
    (e : Entry) (h : parseLine p.extraTokens (out.length + 1) line = .instr i) (he : entryOf p.hexCase i = some e) :
    assembleFrom p out (line :: rest) = assembleFrom p (out ++ [e]) rest := by
  simp [assembleFrom, h, he]

/-- The next line does not: its error ends the function (R82). -/
theorem assembleFrom_error (p : Params) (out : List Entry) (line : List Char) (rest : List (List Char)) (e : AsmError)
    (h : parseLine p.extraTokens (out.length + 1) line = .error e) :
    assembleFrom p out (line :: rest) = .error e := by
  simp [assembleFrom, h]

end Sys2Proof.Machine
end

