-- ==== Sys2Proof/Laws/PerInstr.lean ====
section
/-! SUPPORT. The family RowMatch, one lemma for each instruction: its byte lies in its own row of the opcode table. -/

namespace Sys2Proof.Laws.RowMatch

/-- The byte of a well-formed instruction has its row's format and meets its row's mask and match. -/
def Statement (i : Instr) : Prop :=
  i.wf = true → (rowOf i).format = i.format ∧ encode i &&& (rowOf i).mask = (rowOf i).pattern

/-- A data word whose value is a literal has opcode nibble 0 (30_encoding.md R52). -/
theorem literal_high_nibble : ∀ v : Byte, v.toNat ≤ 15 → v &&& 0xF0 = 0x00 := by decide

theorem nop : Statement .nop := fun _ => ⟨rfl, rfl⟩

theorem lda (x : Nibble) : Statement (.lda x) := fun _ => ⟨rfl, by revert x; decide⟩

theorem add (x : Nibble) : Statement (.add x) := fun _ => ⟨rfl, by revert x; decide⟩

theorem sub (x : Nibble) : Statement (.sub x) := fun _ => ⟨rfl, by revert x; decide⟩

theorem sta (x : Nibble) : Statement (.sta x) := fun _ => ⟨rfl, by revert x; decide⟩

theorem ldi (x : Nibble) : Statement (.ldi x) := fun _ => ⟨rfl, by revert x; decide⟩

theorem jmp (x : Nibble) : Statement (.jmp x) := fun _ => ⟨rfl, by revert x; decide⟩

theorem jc (x : Nibble) : Statement (.jc x) := fun _ => ⟨rfl, by revert x; decide⟩

theorem jz (x : Nibble) : Statement (.jz x) := fun _ => ⟨rfl, by revert x; decide⟩

theorem out : Statement .out := fun _ => ⟨rfl, rfl⟩

theorem hlt : Statement .hlt := fun _ => ⟨rfl, rfl⟩

theorem literal (v : Byte) : Statement (.literal v) := fun h => ⟨rfl, literal_high_nibble v (of_decide_eq_true h)⟩

theorem setpin (p : Line) (v : Bool) : Statement (.setpin p v) := fun _ => ⟨rfl, by cases p <;> cases v <;> rfl⟩

theorem wait (d : DelaySel) : Statement (.wait d) := fun _ => ⟨rfl, by cases d <;> rfl⟩

theorem addrsel (a : Nibble) : Statement (.addrsel a) := fun _ => ⟨rfl, by revert a; decide⟩

theorem shbegin : Statement .shbegin := fun _ => ⟨rfl, rfl⟩

theorem shbit (b : Bool) : Statement (.shbit b) := fun _ => ⟨rfl, by cases b <;> rfl⟩

theorem latch : Statement .latch := fun _ => ⟨rfl, rfl⟩

theorem wrpulse : Statement .wrpulse := fun _ => ⟨rfl, rfl⟩

theorem gap : Statement .gap := fun _ => ⟨rfl, rfl⟩

theorem loadword (a : Nibble) : Statement (.loadword a) := fun _ => ⟨rfl, by revert a; decide⟩

theorem load (o : Order) : Statement (.load o) := fun _ => ⟨rfl, by cases o <;> rfl⟩

theorem readStatus : Statement .readStatus := fun _ => ⟨rfl, rfl⟩

theorem shiftout (o : Order) : Statement (.shiftout o) := fun _ => ⟨rfl, by cases o <;> rfl⟩

theorem reset : Statement .reset := fun _ => ⟨rfl, rfl⟩

end Sys2Proof.Laws.RowMatch
end

