-- ==== Sys2Proof/Tests/Slice0.lean ====
section
/-! SUPPORT. Small tests. The expected values are the spec's: 95_test_vectors.md L1 and L2 where a test names them, else the
rule named. Then the witnesses that meet the hypotheses of the statements. -/

namespace Sys2Proof.Tests

open Sys2Proof Sys2Proof.Machine

/-! ## Well-formedness -/

theorem test_wf_refuses_a_literal_above_15 : (Instr.literal 0x10).wf = false := by decide

theorem test_wf_accepts_a_literal_of_15 : (Instr.literal 0x0F).wf = true := by decide

/-! ## Decoding: words written out bit by bit from the tables of R50, R52 and R57 -/

theorem test_decode_nop : decode .sap1Word 0b00000000 = .instr .nop := by decide
theorem test_decode_lda : decode .sap1Word 0b00011110 = .instr (.lda 14) := by decide
theorem test_decode_add : decode .sap1Word 0b00101111 = .instr (.add 15) := by decide
theorem test_decode_sub : decode .sap1Word 0b00110011 = .instr (.sub 3) := by decide
theorem test_decode_sta : decode .sap1Word 0b01001001 = .instr (.sta 9) := by decide
theorem test_decode_ldi : decode .sap1Word 0b01010101 = .instr (.ldi 5) := by decide
theorem test_decode_jmp : decode .sap1Word 0b01100001 = .instr (.jmp 1) := by decide
theorem test_decode_jc : decode .sap1Word 0b01110101 = .instr (.jc 5) := by decide
theorem test_decode_jz : decode .sap1Word 0b10001111 = .instr (.jz 15) := by decide
theorem test_decode_out : decode .sap1Word 0b11100000 = .instr .out := by decide
theorem test_decode_hlt : decode .sap1Word 0b11110000 = .instr .hlt := by decide
theorem test_decode_literal : decode .sap1Data 0b00000111 = .instr (.literal 7) := by decide
theorem test_decode_setpin : decode .seqOp 0b00001110 = .instr (.setpin .weN false) := by decide
theorem test_decode_setpin_clk : decode .seqOp 0b00001011 = .instr (.setpin .clk true) := by decide
theorem test_decode_wait : decode .seqOp 0b00010010 = .instr (.wait .tWe) := by decide
theorem test_decode_addrsel : decode .seqOp 0b00101010 = .instr (.addrsel 10) := by decide
theorem test_decode_shbegin : decode .seqOp 0b00110000 = .instr .shbegin := by decide
theorem test_decode_shbit : decode .seqOp 0b01000001 = .instr (.shbit true) := by decide
theorem test_decode_latch : decode .seqOp 0b01010000 = .instr .latch := by decide
theorem test_decode_wrpulse : decode .seqOp 0b01100000 = .instr .wrpulse := by decide
theorem test_decode_gap : decode .seqOp 0b01110000 = .instr .gap := by decide
theorem test_decode_loadword : decode .seqOp 0b10000101 = .instr (.loadword 5) := by decide
theorem test_decode_load : decode .seqOp 0b10010001 = .instr (.load .msbFirst) := by decide
theorem test_decode_read_status : decode .seqOp 0b10100000 = .instr .readStatus := by decide
theorem test_decode_shiftout : decode .seqOp 0b10110000 = .instr (.shiftout .lsbFirst) := by decide
theorem test_decode_reset : decode .seqOp 0b11111111 = .instr .reset := by decide

theorem test_decode_reserved : decode .seqOp 0x14 = .invalid (.reservedCode 0x14) := by decide
theorem test_decode_unused_opcode : decode .sap1Word 0xA5 = .invalid (.unusedOpcode 0xA5) := by decide
theorem test_decode_out_with_operand : decode .sap1Word 0xE3 = .invalid (.operandNotZero 0xE3) := by decide
theorem test_decode_data_above_15 : decode .sap1Data 0x10 = .invalid (.literalTooLarge 0x10) := by decide

/-- The micro-sequence of address 0 of program P1 (95_test_vectors.md L3), as codes. -/
theorem test_event_codes_of_P1 :
    (eventList 0 0x55 .default).map (fun e => encode e.instr)
      = [0x00, 0x02, 0x04, 0x06, 0x0C, 0x09, 0x0B, 0x0A, 0x08, 0x0B, 0x0A, 0x09, 0x0B, 0x0A, 0x08, 0x0B, 0x0A, 0x09]
        ++ [0x0B, 0x0A, 0x08, 0x0B, 0x0A, 0x09, 0x0B, 0x0A, 0x08, 0x0B, 0x0A, 0x0D, 0x11, 0x0C, 0x0E, 0x12, 0x0F, 0x13] := by
  decide

/-! ## Operands: S1 and the table of serial frames -/

theorem test_frame_lsb_first :
    frame 0b10110000 .lsbFirst = [false, false, false, false, true, true, false, true] := by decide

theorem test_frame_msb_first :
    frame 0b10110000 .msbFirst = [true, false, true, true, false, false, false, false] := by decide

theorem test_bitrev8 : bitrev8 0x1E = 0x78 := by decide

/-! ## The assembler: 95_test_vectors.md L2 -/

theorem test_parse_trims_and_splits : parseLine .reject 1 [' ', 'L', 'D', 'I', ' ', '\t', '5', ' '] = .instr (.ldi 5) := by
  decide

theorem test_parse_missing_operand : parseLine .ignore 3 ['L', 'D', 'A'] = .error (.malformedLine 3) := by decide

theorem test_parse_two_digit_operand :
    parseLine .ignore 1 ['L', 'D', 'A', ' ', '0', '5'] = .error (.unknownOperand 1 ['0', '5']) := by decide

theorem test_parse_lower_case_mnemonic :
    parseLine .ignore 1 ['l', 'd', 'a', ' ', '5'] = .error (.unknownOperand 1 ['l', 'd', 'a']) := by decide

theorem test_parse_blank : parseLine .ignore 2 [' ', ' '] = .error (.malformedLine 2) := by decide

theorem test_parse_extra_token_rejected :
    parseLine .reject 1 ['L', 'D', 'I', ' ', '5', ' ', '9'] = .error (.malformedLine 1) := by decide

/-- The mnemonics of L2, each with its operand. -/
theorem test_parse_mnemonics :
    parseLine .ignore 1 ['L', 'D', 'A', ' ', 'E'] = .instr (.lda 14)
      ∧ parseLine .ignore 1 ['A', 'D', 'D', ' ', 'F'] = .instr (.add 15)
      ∧ parseLine .ignore 1 ['S', 'U', 'B', ' ', '3'] = .instr (.sub 3)
      ∧ parseLine .ignore 1 ['S', 'T', 'A', ' ', '9'] = .instr (.sta 9)
      ∧ parseLine .ignore 1 ['J', 'M', 'P', ' ', '1'] = .instr (.jmp 1)
      ∧ parseLine .ignore 1 ['J', 'C', ' ', '5'] = .instr (.jc 5)
      ∧ parseLine .ignore 1 ['J', 'Z', ' ', 'f'] = .instr (.jz 15)
      ∧ parseLine .ignore 1 ['O', 'U', 'T', ' ', '3'] = .instr .out
      ∧ parseLine .ignore 1 ['H', 'L', 'T'] = .instr .hlt := by decide

theorem test_parse_literal : parseLine .ignore 1 ['F'] = .instr (.literal 0x0F) := by decide

/-- S4: 17 valid lines overflow. -/
theorem test_assemble_overflow :
    assemble .spec (List.replicate 17 ['N', 'O', 'P']) 16 = .error (.capacityOverflow 17) := by decide

/-- Line errors come before the overflow. -/
theorem test_assemble_line_error_first :
    assemble .spec (List.replicate 16 ['N', 'O', 'P'] ++ [['L', 'D', 'A']]) 16 = .error (.malformedLine 17) := by decide

/-- S2: the first two entries. -/
theorem test_assemble_S2 :
    (match assemble .spec [['L', 'D', 'I', ' ', '5'], ['O', 'U', 'T']] 16 with
      | .image img => img.take 3
      | .error _ => []) = [⟨"LDI 0x5", 0x55⟩, ⟨"OUT 0x0", 0xE0⟩, ⟨"0x00", 0x00⟩] := by decide

/-! ## One step on a small state -/

/-- The reset state with `n` events to be accepted. -/
def granted (n : Nat) : State := { State.reset with pinPath := List.replicate n .ok }

/-- The reset state with `n` events to be accepted and the next one rejected. -/
def rejected (n : Nat) (landed : Bool) : State :=
  { State.reset with pinPath := List.replicate n .ok ++ [.fail landed] }

theorem test_nop_entry : (execState .nop State.reset).asm.entries = [⟨"NOP 0x0", 0x00⟩] := by decide
theorem test_lda_entry : (execState (.lda 14) State.reset).asm.entries = [⟨"LDA 0xe", 0x1E⟩] := by decide
theorem test_add_entry : (execState (.add 15) State.reset).asm.entries = [⟨"ADD 0xf", 0x2F⟩] := by decide
theorem test_sub_entry : (execState (.sub 3) State.reset).asm.entries = [⟨"SUB 0x3", 0x33⟩] := by decide
theorem test_sta_entry : (execState (.sta 9) State.reset).asm.entries = [⟨"STA 0x9", 0x49⟩] := by decide
theorem test_ldi_entry : (execState (.ldi 5) State.reset).asm.entries = [⟨"LDI 0x5", 0x55⟩] := by decide
theorem test_jmp_entry : (execState (.jmp 1) State.reset).asm.entries = [⟨"JMP 0x1", 0x61⟩] := by decide
theorem test_jc_entry : (execState (.jc 5) State.reset).asm.entries = [⟨"JC 0x5", 0x75⟩] := by decide
theorem test_jz_entry : (execState (.jz 0) State.reset).asm.entries = [⟨"JZ 0x0", 0x80⟩] := by decide
theorem test_out_entry : (execState .out State.reset).asm.entries = [⟨"OUT 0x0", 0xE0⟩] := by decide
theorem test_hlt_entry : (execState .hlt State.reset).asm.entries = [⟨"HLT 0x0", 0xF0⟩] := by decide
theorem test_literal_word : ((execState (.literal 7) State.reset).asm.entries.map fun e => e.word) = [0x07] := by decide

/-- `WE_n = 1`, `A = 2`, `Q = 0xF0`; SETPIN WE_n, 0. -/
theorem test_setpin_writes :
    (execState (.setpin .weN false) { granted 1 with q := 0xF0, lines := { Lines.reset with a1 := true } }).m
      = [(2, 0xF0)] := by decide

/-- `CLK = 0`, `DATA = 1`, `SR = 0x00`; SETPIN CLK, 1 under BIT7. -/
theorem test_setpin_shifts_bit7 :
    (execState (.setpin .clk true)
      { granted 1 with
        lines := { Lines.reset with data := true }
        params := { Params.spec with firstBit := .bit7 } }).sr = 0x01 := by decide

/-- R37, D10: after a failed SHIFTOUT whose event 25 has left LATCH high, `Q` is `SR` and stays so: SETPIN LATCH, 1
changes nothing. -/
theorem test_latch_left_high :
    (let t := execState (.shiftout .lsbFirst) { rejected 25 true with w := 0x2F, q := 0x99 }
    let u := execState (.setpin .latch true) { t with pinPath := [.ok] }
    (t.lines.latch, t.sr, t.q, u.q)) = (true, 0x2F, 0x2F, 0x2F) := by decide

/-- R38, D11: with `WE_n = 0` after an address move, whose cell is any value (R39), the next event commits `Q`, be it
a SETPIN of a line to the level it holds or a WAIT. -/
theorem test_commit_after_an_address_move :
    (let s : State := { granted 2 with q := 0x99, lines := { Lines.reset with weN := false } }
    let t := execState (.setpin .a1 true) s
    ((execState (.setpin .weN false) t).readCell 2, (execState (.wait .tWe) t).readCell 2))
      = (some 0x99, some 0x99) := by decide

/-- The rejected SETPIN LATCH, 0: FAULT, code 4. -/
theorem test_setpin_rejected :
    (let t := execState (.setpin .latch false) (rejected 0 true)
    (t.phase, t.code, t.lines.latch)) = (.fault, 4, false) := by decide

/-- WAIT T_WE grows TIME by at least 200. -/
theorem test_wait_lasts : 200 ≤ (execState (.wait .tWe) (granted 1)).time := by
  show 200 ≤ 0 + (200 + Config.spareMs 0)
  omega

/-- ADDRSEL 0xA. -/
theorem test_addrsel : (execState (.addrsel 10) (granted 4)).lines.address = 0xA := by decide

/-- ADDRSEL 0xF whose third event fails: 0x3 or 0x7. -/
theorem test_addrsel_rejected : (execState (.addrsel 15) (rejected 2 false)).lines.address = 0x3 := by decide

theorem test_shbegin :
    (execState .shbegin { granted 1 with lines := { Lines.reset with latch := true } }).lines.latch = false := by decide

/-- SHBIT 1 on `SR = 0x00`. -/
theorem test_shbit :
    (let t := execState (.shbit true) (granted 3)
    (t.sr, t.lines.data, t.lines.clk)) = (0x80, true, false) := by decide

theorem test_latch : (execState .latch { granted 3 with sr := 0x55 }).q = 0x55 := by decide

/-- SHIFTOUT LSB and MSB of 0x2F. -/
theorem test_shiftout_lsb : (execState (.shiftout .lsbFirst) { granted 28 with w := 0x2F, q := 0x99 }).q = 0x2F := by
  decide

theorem test_shiftout_msb : (execState (.shiftout .msbFirst) { granted 28 with w := 0x2F, q := 0x99 }).q = 0xF4 := by
  decide

/-- WRPULSE with `A = 1`, `Q = 0xE0`; begun with `WE_n = 0`; and with its WAIT rejected. -/
theorem test_wrpulse :
    (execState .wrpulse { granted 3 with q := 0xE0, lines := { Lines.reset with a0 := true } }).m = [(1, 0xE0)] := by
  decide

theorem test_wrpulse_write_enable_low :
    (execState .wrpulse { granted 3 with q := 0xE0, m := [(0, 0x11)], lines := { Lines.reset with weN := false } }).m
      = [(0, 0xE0)] := by
  decide

theorem test_wrpulse_wait_rejected :
    (execState .wrpulse { rejected 1 false with q := 0xE0 }).lines.weN = false := by decide

theorem test_gap : (execState .gap (granted 1)).trace = [⟨.wait 100, true⟩] := by decide

/-- P6: LOADWORD 5 with `IMG[5] = 0x01`, `SR = 0xC3`, `Q = 0x99`. -/
theorem test_loadword_P6 :
    (let t := execState (.loadword 5)
      { granted 36 with
        img := #v[0, 0, 0, 0, 0, 1, 0, 0, 0, 0, 0, 0, 0, 0, 0, 0]
        sr := 0xC3
        q := 0x99
        m := [(4, 0x77), (5, 0x77)] }
    (t.sr, t.q, t.m)) = (0x01, 0x01, [(4, 0x77), (5, 0x01)]) := by decide

/-- The script's start with CLK high: `(0x55 & 0xFE) | SR_old[7]` (R133). -/
theorem test_loadword_clock_high :
    (execState (.loadword 0)
      { granted 36 with
        img := Vector.replicate 16 0x55
        lines := { Lines.reset with clk := true } }).m = [(0, 0x54)] := by decide

theorem test_load_starts :
    (let t := execState (.load .msbFirst) State.reset
    (t.phase, t.cfg.order, t.cfg.tWe)) = (.run, .msbFirst, 200) := by decide

/-- LOAD with `T_WE = 199`: STATUS 0x0017. -/
theorem test_load_refused :
    (execState (.load .lsbFirst) { State.reset with offer := { State.reset.offer with tWe := 199 } }).statusWord
      = 0x0017 := by decide

/-- RUN at (3, 7): STATUS 0x0E61. -/
theorem test_read_status :
    (execState .readStatus { State.reset with phase := .run, aCnt := 3, j := 7 }).reply = some (.status 0x0E61) := by
  decide

/-- A SHIFTOUT that RESET stops after its event 9 (R95): `Q` is as before, the lines are idle. -/
theorem test_reset_within_shiftout :
    (match step { granted 28 with w := 0x55, q := 0x99, turns := [.codeThenReset .seqOp 0xB0 10] } with
      | .next t => (t.q, t.lines, t.trace)
      | .fault _ => (0, .reset, [])
      | .refused _ => (0, .reset, [])) = (0x99, .reset, []) := by decide

/-- R121: an event rejected in FAULT raises no second fault, and the record of the first stays. -/
theorem test_no_second_fault :
    (let t := execState (.loadword 7) { rejected 3 true with phase := .fault, code := 5, aCnt := 2, j := 34 }
    (t.phase, t.code, t.aCnt, t.j)) = (.fault, 5, 2, 34) := by decide

/-- RESET of FAULT at (1, 33): the write ends first, `M[1]` stays, the lines are idle. -/
theorem test_reset :
    (let t := execState .reset
      { State.reset with
        phase := .fault
        code := 4
        aCnt := 1
        j := 33
        q := 0xE0
        m := [(1, 0xE0)]
        lines := { Lines.reset with a0 := true, weN := false } }
    (t.m, t.lines, t.statusWord)) = ([(1, 0xE0)], .reset, 0x0000) := by decide

/-- A code beside the sequencer while a load runs. -/
theorem test_second_driver :
    step { State.reset with phase := .run, turns := [.code .seqOp 0x0E] } = .refused .secondDriver := by rfl

/-- The sequencer's step at (0, 32) of a load: `WE_n` falls and the cell is written. -/
theorem test_sequencer_writes :
    (match step { granted 1 with phase := .run, j := 32, q := 0x55 } with
      | .next t => (t.m, t.j)
      | .fault _ => ([], 0)
      | .refused _ => ([], 0)) = ([(0, 0x55)], 33) := by decide

/-- A table word is run as the very next instruction. -/
theorem test_table_word : decodeTableWord 8 0xFF = some .reset ∧ decodeTableWord 8 0xE0 = some .out
    ∧ decodeTableWord 8 0x0B = some (.setpin .clk true) ∧ decodeTableWord 8 0xC0 = none := by decide

theorem test_placed_word_runs : step (State.reset.withFetchWord 8 0xFF) = exec .reset State.reset := by rfl

/-! ## Witnesses: for each statement with hypotheses, a state and operands that meet them together -/

theorem granted_ok (n : Nat) : (granted n).answersOk n := State.answersOk_of_pinPath _ n rfl

theorem rejected_first (n : Nat) (landed : Bool) : (rejected n landed).rejectsFirst n landed :=
  State.rejectsFirst_of_pinPath _ n landed rfl

theorem witness_DecodeOfEncodeIsTheInstruction : (Instr.literal 15).wf = true := by decide

theorem witness_EncodeOfDecodeIsTheByte : decode .seqOp 0xB1 = .instr (.shiftout .msbFirst) := by decide

/-- Lines that parse, a literal among them. -/
theorem witness_WordsTheAssemblerNeverProduces :
    parseLine .ignore 1 ['L', 'D', 'A', ' ', 'F'] = .instr (.lda 15)
      ∧ entryOf .lower (.lda 15) = some ⟨"LDA 0xf", 0x1F⟩
      ∧ parseLine .ignore 1 ['F'] = .instr (.literal 0x0F) := by decide

/-- The three cases of a code issued: run, second driver, invalid. -/
theorem witness_StepRunsTheDecodedCode :
    decode .seqOp 0x0E = .instr (.setpin .weN false) ∧ ¬(State.reset.phase = .run ∧ usesPinPath (.setpin .weN false) = true)
      ∧ ({ State.reset with phase := .run } : State).phase = .run ∧ usesPinPath (.setpin .weN false) = true
      ∧ decode .seqOp 0xC0 = .invalid (.reservedCode 0xC0) := by decide

theorem witness_BareMnemonicsAndLiteralsYieldTheirEntries : (0x0F : Byte).toNat ≤ 15 := by decide

theorem witness_WordGivesBackOpcodeAndOperand :
    entryOf .upper (.jz 10) = some ⟨"JZ 0xA", 0x8A⟩ ∧ (0x0F : Byte).toNat ≤ 15 := by decide

/-- A word before whitespace and one at the end of the line; a line of whitespace alone. -/
theorem witness_LineIsSplitOnWhitespace :
    ['5', '9'] ≠ [] ∧ (∀ c ∈ ['5', '9'], isSpace c = false) ∧ (∀ c ∈ [' ', '7'].head?, isSpace c = true)
      ∧ (∀ c ∈ ([] : List Char).head?, isSpace c = true) ∧ ∀ c ∈ [' ', '\t'], isSpace c = true := by
  simp [isSpace]

/-- The forms of a line. -/
theorem witness_LineIsReadByItsTokens :
    tokens ['J', 'C'] = [['J', 'C']] ∧ (operandMnemonic ['J', 'C']).isSome = true
      ∧ tokens ['J', 'C', ' ', 'G'] = [['J', 'C'], ['G']] ∧ hexToken ['G'] = none
      ∧ tokens ['1', '0'] = [['1', '0']] ∧ bareMnemonic ['1', '0'] = none ∧ (operandMnemonic ['1', '0']).isNone = true
      ∧ hexToken ['1', '0'] = none
      ∧ tokens ['J', 'C', ' ', '5', ' ', '9'] = [['J', 'C'], ['5'], ['9']] ∧ hexToken ['5'] = some 5
      ∧ tokens ['N', 'O', 'P', ' ', '7'] = [['N', 'O', 'P'], ['7']] ∧ bareMnemonic ['N', 'O', 'P'] = some .nop
      ∧ tokens ['5', ' ', '9'] = [['5'], ['9']] ∧ bareMnemonic ['5'] = none ∧ (operandMnemonic ['5']).isNone = true := by
  decide

/-- A listing of one valid line; the lookup of a line and its parse. -/
theorem witness_ValidListingAssemblesToSixteenEntries :
    [['N', 'O', 'P']].length ≤ 16 ∧ ∀ n line, [['N', 'O', 'P']][n]? = some line → ∃ i, parseLine .ignore (n + 1) line = .instr i := by
  refine ⟨by decide, fun n line h => ?_⟩
  cases n with
  | zero =>
    obtain rfl : ['N', 'O', 'P'] = line := by simpa using h
    exact ⟨.nop, by rfl⟩
  | succ n => simp at h

theorem witness_LongListingOverflows :
    16 < (List.replicate 17 ['N', 'O', 'P']).length
      ∧ ∀ n line, (List.replicate 17 ['N', 'O', 'P'])[n]? = some line → ∃ i, parseLine .ignore (n + 1) line = .instr i := by
  refine ⟨by decide, fun n line h => ⟨.nop, ?_⟩⟩
  obtain rfl : line = ['N', 'O', 'P'] := (List.mem_replicate.1 (List.mem_of_getElem? h)).2
  rfl

/-- Its second case: 17 lines, the first of which is malformed. -/
theorem witness_LongListingOverflows_bad_line :
    16 < (['L', 'D', 'A'] :: List.replicate 16 ['N', 'O', 'P']).length
      ∧ (['L', 'D', 'A'] :: List.replicate 16 ['N', 'O', 'P'])[0]? = some ['L', 'D', 'A']
      ∧ parseLine .ignore 1 ['L', 'D', 'A'] = .error (.malformedLine 1) := by decide

theorem witness_FirstBadLineWins :
    [['L', 'D', 'A'], ['N', 'O', 'P']][0]? = some ['L', 'D', 'A']
      ∧ parseLine .ignore 1 ['L', 'D', 'A'] = .error (.malformedLine 1) := by decide

/-- A state whose turns are a listing of one line. -/
theorem witness_TurnsAssembleAsThePureFunction :
    ({ State.reset with turns := [.beginListing 16, .line ['O', 'U', 'T'], .endListing] } : State).turns
      = .beginListing 16 :: ([['O', 'U', 'T']].map Turn.line ++ .endListing :: []) := by rfl

theorem witness_SetpinSetsItsLine : (granted 1).answersOk 1 := granted_ok 1

/-- The rising edge, an event of CLK that is no edge, and the two wirings. -/
theorem witness_ClockEdgeShiftsOneBit :
    (granted 1).answersOk 1 ∧ (granted 1).lines.clk ≠ true
      ∧ true = decide ((granted 1).params.shiftEdge = .rising) ∧ false ≠ decide ((granted 1).params.shiftEdge = .rising)
      ∧ (granted 1).params.firstBit = .bit0
      ∧ ({ granted 1 with params := { Params.spec with firstBit := .bit7 } } : State).params.firstBit = .bit7 :=
  ⟨granted_ok 1, by decide, by decide, by decide, by decide, by decide⟩

/-- The reset state is settled; so is one with LATCH high and `WE_n = 0`. -/
theorem granted_settled (n : Nat) : (granted n).settled :=
  ⟨fun _ h => absurd h (by simp [granted, State.reset, Lines.reset]),
    fun h => absurd h (by simp [granted, State.reset, Lines.reset])⟩

theorem witness_settled :
    ({ State.reset with
        sr := 0x5A
        q := 0x5A
        m := [(0, 0x5A)]
        lines := { Lines.reset with latch := true, weN := false } } : State).settled :=
  ⟨fun _ _ => rfl, fun _ => rfl⟩

/-- LATCH changes, and keeps its level; both modes; the outputs follow. -/
theorem witness_LatchReleasesAndFreezes :
    (granted 1).answersOk 1 ∧ (granted 1).lines.get .latch ≠ true ∧ (granted 1).lines.get .latch = false
      ∧ (granted 1).params.latchMode = .level
      ∧ ({ granted 1 with params := { Params.spec with latchMode := .edge } } : State).params.latchMode = .edge
      ∧ (granted 1).outputsFollow :=
  ⟨granted_ok 1, by decide, rfl, rfl, rfl, (granted_settled 1).1⟩

/-- SETPIN WE_n, 0 leaves the write enable active, SETPIN CLK, 1 inactive, and SETPIN WE_n, 1, and an address line set
to its level, change no line. -/
theorem witness_WriteEnableCommitsTheLatchedByte :
    (granted 1).answersOk 1 ∧ isAddressLine .weN = false ∧ (granted 1).lines.get .weN ≠ false
      ∧ (execState (.setpin .weN false) (granted 1)).lines.weN = false
      ∧ (granted 1).lines.get .clk ≠ true ∧ (execState (.setpin .clk true) (granted 1)).lines.weN = true
      ∧ (granted 1).lines.get .weN = true ∧ (granted 1).lines.get .a2 = false ∧ (granted 1).settled :=
  ⟨granted_ok 1, rfl, by decide, by decide, by decide, by decide, rfl, rfl, granted_settled 1⟩

/-- `A3` moves from 0 to 1, with `WE_n` at 1 and at 0. -/
theorem witness_AddressMoveTouchesTwoCells :
    (granted 1).answersOk 1 ∧ isAddressLine .a3 = true ∧ (granted 1).lines.get .a3 ≠ true ∧ (granted 1).lines.weN = true
      ∧ ({ granted 1 with lines := { Lines.reset with weN := false } } : State).answersOk 1
      ∧ (granted 1).outputsFollow :=
  ⟨granted_ok 1, rfl, by decide, rfl, State.answersOk_of_pinPath _ 1 rfl, (granted_settled 1).1⟩

/-- A settled state, and one that is not: `WE_n = 0` and another byte in the cell. -/
theorem witness_WaitLastsAtLeastItsDelay :
    (granted 1).answersOk 1 ∧ (granted 1).settled
      ∧ (let s : State := { granted 1 with q := 0x99, lines := { Lines.reset with weN := false } }
        s.answersOk 1 ∧ ¬s.settled) :=
  ⟨granted_ok 1, granted_settled 1, State.answersOk_of_pinPath _ 1 rfl, fun h => absurd (h.2 rfl) (by decide)⟩

/-- A rejection outside FAULT, where `State.reset` is, and within it. -/
theorem witness_FaultsHere :
    State.reset.phase ≠ .fault ∧ ({ rejected 0 true with phase := .fault } : State).rejectsFirst 0 true :=
  ⟨by decide, State.rejectsFirst_of_pinPath _ 0 true rfl⟩

theorem witness_RejectedSetpinFaults : (rejected 0 true).rejectsFirst 0 true ∧ (rejected 0 false).rejectsFirst 0 false :=
  ⟨rejected_first 0 true, rejected_first 0 false⟩

theorem witness_RejectedWaitFaults : (rejected 0 true).rejectsFirst 0 true ∧ (rejected 0 true).settled :=
  ⟨rejected_first 0 true, granted_settled 0⟩

/-- Four events, and five with `T_ADDR > 0`. -/
theorem witness_AddrselPresentsTheAddress :
    (granted 4).answersOk (4 + (granted 4).cfg.offset) ∧ (granted 4).lines.weN = true ∧ (granted 4).outputsFollow
      ∧ ({ granted 5 with cfg := { Cfg.default with tAddr := 5 } } : State).answersOk 5 :=
  ⟨granted_ok 4, rfl, (granted_settled 4).1, State.answersOk_of_pinPath _ 5 rfl⟩

theorem witness_AddrselStopsAtTheRejectedLine :
    3 < 4 ∧ (rejected 3 true).rejectsFirst 3 true ∧ (rejected 0 false).rejectsFirst 0 false ∧ (rejected 3 true).lines.weN = true :=
  ⟨by decide, rejected_first 3 true, rejected_first 0 false, rfl⟩

/-- LATCH low already, and high. -/
theorem witness_ShbeginFreezesTheOutputs :
    (granted 1).answersOk 1 ∧ (granted 1).lines.latch = false ∧ (granted 1).settled
      ∧ ({ granted 1 with lines := { Lines.reset with latch := true } } : State).answersOk 1 :=
  ⟨granted_ok 1, rfl, granted_settled 1, State.answersOk_of_pinPath _ 1 rfl⟩

/-- A SHBIT that shifts and one that does not. -/
theorem witness_ShbitShiftsOneBit :
    (granted 3).answersOk 3 ∧ (granted 3).shiftsEight
      ∧ ¬({ granted 3 with lines := { Lines.reset with clk := true } } : State).shiftsEight :=
  ⟨granted_ok 3, .inl rfl, by simp [State.shiftsEight, granted, State.reset, Params.spec]⟩

/-- LEVEL mode with LATCH low, and EDGE mode with LATCH high. -/
theorem witness_LatchTransfersTheRegister :
    (granted 3).answersOk 3 ∧ (granted 3).lines.latch = false
      ∧ ({ granted 3 with
            lines := { Lines.reset with latch := true }
            params := { Params.spec with latchMode := .edge } } : State).answersOk 3 :=
  ⟨granted_ok 3, rfl, State.answersOk_of_pinPath _ 3 rfl⟩

theorem witness_ShiftoutDeliversTheWord : (granted 28).answersOk 28 ∧ (granted 28).shiftsEight :=
  ⟨granted_ok 28, .inl rfl⟩

/-- RISING with CLK high, under both wirings. -/
theorem witness_ClockHighAtTheStartLosesABit :
    ({ granted 28 with lines := { Lines.reset with clk := true } } : State).answersOk 28
      ∧ ({ granted 28 with
            lines := { Lines.reset with clk := true }
            params := { Params.spec with firstBit := .bit7 } } : State).answersOk 28
      ∧ Params.spec.shiftEdge = .rising ∧ Params.spec.firstBit = .bit0 :=
  ⟨State.answersOk_of_pinPath _ 28 rfl, State.answersOk_of_pinPath _ 28 rfl, rfl, rfl⟩

/-- The first event, the bounds of the shift, the event that raises LATCH with both levels, and the last event. -/
theorem witness_RejectedShiftoutStops :
    (rejected 0 true).rejectsFirst 0 true ∧ (rejected 1 true).rejectsFirst 1 true
      ∧ (rejected 24 true).rejectsFirst 24 true ∧ (rejected 25 false).rejectsFirst 25 false
      ∧ (rejected 25 true).rejectsFirst 25 true ∧ (rejected 27 true).rejectsFirst 27 true
      ∧ (rejected 27 true).lines.weN = true ∧ (rejected 27 true).shiftsEight :=
  ⟨rejected_first 0 true, rejected_first 1 true, rejected_first 24 true, rejected_first 25 false,
    rejected_first 25 true, rejected_first 27 true, rfl, .inl rfl⟩

/-- `WE_n` at 1 and at 0. -/
theorem witness_WrpulseCommitsTheByte :
    (granted 3).answersOk 3 ∧ (granted 3).lines.weN = true ∧ (granted 3).outputsFollow
      ∧ ({ granted 3 with lines := { Lines.reset with weN := false } } : State).answersOk 3 :=
  ⟨granted_ok 3, rfl, (granted_settled 3).1, State.answersOk_of_pinPath _ 3 rfl⟩

theorem witness_GapWaits : (granted 1).answersOk 1 ∧ (granted 1).settled := ⟨granted_ok 1, granted_settled 1⟩

/-- Both lengths of an event list. -/
theorem witness_EventListIsTheTable :
    Cfg.default.tAddr = 0 ∧ ({ Cfg.default with tAddr := 5 } : Cfg).tAddr ≠ 0 ∧ 7 < 8 := by decide

/-- A LOADWORD in IDLE and one in DONE. -/
theorem witness_LoadwordPerformsItsEventList :
    (granted 36).answersOk (granted 36).cfg.eventCount ∧ (granted 36).phase ≠ .done ∧ (granted 36).phase ≠ .fault
      ∧ ({ granted 36 with phase := .done } : State).answersOk 36 :=
  ⟨granted_ok 36, by decide, by decide, State.answersOk_of_pinPath _ 36 rfl⟩

theorem witness_LoadwordProgramsItsCell :
    (granted 36).answersOk (granted 36).cfg.eventCount ∧ (granted 36).lines.weN = true ∧ (granted 36).shiftsEight :=
  ⟨granted_ok 36, rfl, .inl rfl⟩

theorem witness_RejectedLoadwordRecordsItsPosition :
    35 < (rejected 35 true).cfg.eventCount ∧ (rejected 35 true).rejectsFirst 35 true
      ∧ (rejected 35 true).phase ≠ .fault
      ∧ ({ rejected 35 true with phase := .fault } : State).rejectsFirst 35 true :=
  ⟨by decide, rejected_first 35 true, by decide, State.rejectsFirst_of_pinPath _ 35 true rfl⟩

theorem witness_LoadStartsAtAddressZero : State.reset.phase ≠ .run ∧ State.reset.offer.legal = true := by decide

theorem witness_IllegalLoadIsRefused :
    State.reset.phase ≠ .run ∧ ({ State.reset.offer with tLatch := 9 } : LoadData).legal = false := by decide

/-- DONE at the end of a load. -/
theorem witness_ReadStatusReturnsTheFields :
    Inv { State.reset with phase := .done, aCnt := 16 } :=
  ⟨fun _ h => absurd h (by decide), rfl, rfl, by decide, by decide, fun h => absurd h (by decide), fun h => absurd h (by decide),
    fun _ => ⟨rfl, rfl, rfl⟩, fun h => absurd h (by decide)⟩

theorem witness_LoadWhileRunningIsBusy : ({ State.reset with phase := .run } : State).phase = .run := rfl

/-- No load; a load just before and just after the shift; an edge of CLK under FALLING. -/
theorem witness_ResetLeavesTheTarget :
    ¬(State.reset.phase = .run ∧ State.reset.cfg.aborts State.reset.j.toNat = true)
      ∧ Cfg.default.aborts 4 = false ∧ Cfg.default.aborts 5 = true ∧ Cfg.default.aborts 29 = true
      ∧ Cfg.default.aborts 30 = false ∧ State.reset.lines.latch = false
      ∧ (let s : State :=
          { State.reset with
            lines := { Lines.reset with clk := true, data := true }
            params := { Params.spec with shiftEdge := .falling } }
        (execState .reset s).sr = 0x80) := by decide

/-- A SHIFTOUT that RESET stops at the bounds of the shift, and before it. -/
theorem witness_ResetStopsAnOperationBetweenEvents :
    (let s : State := { granted 25 with turns := [.codeThenReset .seqOp 0xB0 25] }
    s.turns = .codeThenReset .seqOp 0xB0 25 :: [] ∧ s.phase ≠ .run ∧ s.answersOk 25)
      ∧ decode .seqOp 0xB0 = .instr (.shiftout .lsbFirst) ∧ usesPinPath (.shiftout .lsbFirst) = true
      ∧ ({ granted 1 with turns := [.codeThenReset .seqOp 0xB0 1] } : State).answersOk 1
      ∧ opAborts .default 0 (.shiftout .lsbFirst) = false ∧ opAborts .default 1 (.shiftout .lsbFirst) = true
      ∧ opAborts .default 25 (.shiftout .lsbFirst) = true ∧ opAborts .default 26 (.shiftout .lsbFirst) = false :=
  ⟨⟨rfl, by decide, State.answersOk_of_pinPath _ 25 rfl⟩, by decide, rfl, State.answersOk_of_pinPath _ 1 rfl,
    by decide, by decide, by decide, by decide⟩

/-- A load at its first event, and at its last one, of address 15. -/
theorem witness_SequencerPerformsOneEvent :
    ({ granted 1 with phase := .run } : State).answersOk 1 ∧ (granted 1).turns = [] ∧ (granted 1).aCnt.toNat < 16
      ∧ (granted 1).j.toNat + 1 < (granted 1).cfg.eventCount
      ∧ ({ granted 1 with phase := .run, aCnt := 15, j := 35 } : State).answersOk 1
      ∧ (35 : BitVec 6).toNat + 1 = Cfg.default.eventCount :=
  ⟨State.answersOk_of_pinPath _ 1 rfl, rfl, by decide, by decide, State.answersOk_of_pinPath _ 1 rfl, by decide⟩

/-- A SET outside the shift, a SET within it with LATCH low after it, and a WAIT. -/
theorem witness_SequencerStopsAtARejectedEvent :
    ({ rejected 0 true with phase := .run } : State).rejectsFirst 0 true ∧ (rejected 0 true).turns = []
      ∧ (rejected 0 true).aCnt.toNat < 16 ∧ (rejected 0 true).j.toNat < (rejected 0 true).cfg.eventCount
      ∧ ({ rejected 0 true with phase := .run, j := 5 } : State).rejectsFirst 0 true
      ∧ Cfg.default.aborts 0 = false ∧ Cfg.default.aborts 5 = true
      ∧ (eventList 0 0x55 .default)[5]? = some (.set .data true)
      ∧ ({ rejected 0 true with phase := .run, j := 33 } : State).rejectsFirst 0 true
      ∧ (eventList 0 0x55 .default)[33]? = some (.wait .tWe) :=
  ⟨State.rejectsFirst_of_pinPath _ 0 true rfl, rfl, by decide, by decide,
    State.rejectsFirst_of_pinPath _ 0 true rfl, by decide, by decide, by decide,
    State.rejectsFirst_of_pinPath _ 0 true rfl, by decide⟩

/-- The start of a load whose every event will be accepted. -/
theorem witness_LoadDeliversTheImage :
    LoadBegins { granted 576 with phase := .run }
      ∧ ({ granted 576 with phase := .run } : State).answersOk (16 * Cfg.default.eventCount) :=
  ⟨⟨rfl, rfl, rfl, rfl, rfl, rfl, rfl⟩, State.answersOk_of_pinPath _ 576 rfl⟩

theorem witness_LoadTraceIsTheSixteenEventLists :
    LoadBegins { granted 576 with phase := .run }
      ∧ ({ granted 576 with phase := .run } : State).answersOk (16 * Cfg.default.eventCount) :=
  witness_LoadDeliversTheImage

/-- P4: the rejected event is number 2 × 36 + 34, that is (2, 34); and one that is the write enable of address 1. -/
theorem witness_FaultLeavesPartialProgramming :
    LoadBegins { rejected 106 true with phase := .run }
      ∧ ({ rejected 106 true with phase := .run } : State).rejectsFirst 106 true
      ∧ 106 < 16 * Cfg.default.eventCount ∧ 106 / Cfg.default.eventCount = 2 ∧ 106 % Cfg.default.eventCount = 34
      ∧ ({ rejected 68 true with phase := .run } : State).rejectsFirst 68 true ∧ 68 % Cfg.default.eventCount = 32
      ∧ ({ rejected 69 true with phase := .run } : State).rejectsFirst 69 true ∧ 69 % Cfg.default.eventCount = 33
      ∧ ({ rejected 65 true with phase := .run } : State).rejectsFirst 65 true ∧ 65 % Cfg.default.eventCount = 29 :=
  ⟨⟨rfl, rfl, rfl, rfl, rfl, rfl, rfl⟩, State.rejectsFirst_of_pinPath _ 106 true rfl, by decide, by decide, by decide,
    State.rejectsFirst_of_pinPath _ 68 true rfl, by decide, State.rejectsFirst_of_pinPath _ 69 true rfl, by decide,
    State.rejectsFirst_of_pinPath _ 65 true rfl, by decide⟩

/-- A state in RUN, in the midst of a load, that meets the invariant and answers a next state. -/
theorem witness_StepKeepsTheInvariant :
    Inv { granted 1 with phase := .run, aCnt := 15, j := 35 }
      ∧ ∃ t, step { granted 1 with phase := .run, aCnt := 15, j := 35 } = .next t :=
  ⟨⟨fun _ h => absurd h (by decide), rfl, rfl, by decide, by decide, fun h => absurd h (by decide),
    fun _ => ⟨rfl, by decide, by decide⟩,
    fun h => absurd h (by decide), fun h => absurd h (by decide)⟩, ⟨_, rfl⟩⟩

theorem witness_InvariantExcludesFaults : Inv { granted 1 with phase := .run, aCnt := 15, j := 35 } :=
  witness_StepKeepsTheInvariant.1

/-- RUN at the event that raises LATCH, and the step to the next one. -/
theorem witness_LoadKeepsTheLinesFitting :
    LinesFit { granted 1 with phase := .run, j := 29 }
      ∧ ∃ t, step { granted 1 with phase := .run, j := 29 } = .next t ∧ t.phase = .run :=
  ⟨⟨by decide, by decide, by decide⟩, _, rfl, by decide⟩

/-- RUN at an event that raises CLK. -/
theorem witness_SequencerKeepsTheHazardRules :
    LinesFit { granted 1 with phase := .run, j := 6 } ∧ (granted 1).turns = []
      ∧ ∃ t, step { granted 1 with phase := .run, j := 6 } = .next t
        ∧ t.trace = ({ granted 1 with phase := .run, j := 6 } : State).trace ++ [⟨.set .clk true, true⟩] :=
  ⟨⟨by decide, by decide, by decide⟩, rfl, _, rfl, by decide⟩

/-- RUN with a LOAD waiting, which is refused. -/
theorem witness_ConfigurationIsFixedDuringALoad :
    ∃ t, step { State.reset with phase := .run, turns := [.code .seqOp 0x91] } = .next t ∧ t.phase ≠ .idle :=
  ⟨_, rfl, by decide⟩

/-- FAULT with a RESET waiting, with a LOAD waiting, with an operation that RESET stops, and with no turn. -/
theorem witness_FaultIsLeftOnlyByResetOrLoad :
    (∃ t, step { State.reset with phase := .fault, code := 4, turns := [.code .seqOp 0xFF] } = .next t
      ∧ t.phase ≠ .fault)
      ∧ (∃ t, step { State.reset with phase := .fault, code := 4, turns := [.code .seqOp 0x90] } = .next t
        ∧ t.phase ≠ .fault)
      ∧ (∃ t, step { granted 2 with phase := .fault, code := 4, turns := [.codeThenReset .seqOp 0xB0 2] } = .next t
        ∧ t.phase ≠ .fault)
      ∧ ∃ t, step { State.reset with phase := .fault, code := 4 } = .next t ∧ t.phase = .fault :=
  ⟨⟨_, rfl, by decide⟩, ⟨_, rfl, by decide⟩, ⟨_, rfl, by decide⟩, _, rfl, by decide⟩

theorem witness_TargetIsNeverReadBack : ∃ t, step { granted 1 with phase := .run } = .next t := ⟨_, rfl⟩

theorem witness_ParametersNeverChange : ∃ t, step State.reset = .next t := ⟨_, rfl⟩

end Sys2Proof.Tests
end

section
/-! SUPPORT. The parameters of the environment (R10, R28) under every operation of the model, from one event up to the step. -/

namespace Sys2Proof.Machine

/-! ### Events -/

@[simp] theorem State.accept_params (s : State) (e : Prim) : (s.accept e).params = s.params := by
  simp [State.accept]

@[simp] theorem State.ioError_params (s : State) (a : BitVec 5) (j : BitVec 6) :
    (s.ioError a j).params = s.params := by
  rcases s.ioError_cases a j with ⟨-, h⟩ | ⟨-, h⟩ <;> simp [h]

@[simp] theorem State.reject_params (s : State) (landed : Bool) (e : Prim) :
    (s.reject landed e).params = s.params := by
  simp [State.reject_eq]

@[simp] theorem State.attempt_params (s : State) (e : Prim) : (s.attempt e).1.params = s.params := by
  rcases s.attempt_cases e with ⟨-, h⟩ | ⟨landed, -, h⟩ <;> simp [h]

@[simp] theorem State.acceptAll_params (s : State) (es : List Prim) : (s.acceptAll es).params = s.params := by
  induction es generalizing s with
  | nil => rfl
  | cons e rest ih => simp [ih]

@[simp] theorem State.runPrims_params (s : State) (k : Nat) (es : List Prim) :
    (s.runPrims k es).1.params = s.params := by
  rcases s.runPrims_cases k es with h | ⟨n, e, landed, -, h⟩ <;> simp [h]

/-! ### What follows an operation's events -/

@[simp] theorem State.advance_params (s : State) : s.advance.params = s.params := by
  rcases s.advance_cases with ⟨-, h⟩ | ⟨-, -, h⟩ | ⟨-, -, h⟩ <;> rw [h]

@[simp] theorem State.stopLoadword_params (t : State) (p : Phase) (a : Nibble) (k : Nat) :
    (t.stopLoadword p a k).params = t.params := by
  unfold State.stopLoadword
  split <;> rfl

@[simp] theorem afterLoadword_params (a : Nibble) (s : State) (r : State × Option Nat) :
    (afterLoadword a s r).params = r.1.params := by
  obtain ⟨t, _ | k⟩ := r <;> simp only [afterLoadword] <;> split <;> simp

@[simp] theorem afterShiftout_params (r : State × Option Nat) : (afterShiftout r).params = r.1.params := by
  obtain ⟨t, _ | k⟩ := r
  · rfl
  · simp only [afterShiftout]
    split <;> simp

@[simp] theorem State.beginEvent_params (s : State) : s.beginEvent.params = s.params := by
  rw [State.beginEvent_eq]

/-! ### Instructions, the sequencer and the step -/

@[simp] theorem execState_params (i : Instr) (s : State) : (execState i s).params = s.params := by
  cases i with
  | nop | lda | add | sub | sta | ldi | jmp | jc | jz | out | hlt | literal | readStatus => rfl
  | setpin | wait => exact s.attempt_params _
  | addrsel | shbegin | shbit | latch | wrpulse | gap => exact s.runPrims_params 0 _
  | loadword a => simp [execState, exec, execLoadword]
  | shiftout o => simp [execState, exec, execShiftout]
  | load o =>
    simp only [execState, exec, execLoad]
    split
    · rfl
    · split <;> rfl
  | reset => exact s.resetWith_params _

@[simp] theorem State.abandon_params (s : State) (i : Instr) (k : Nat) : (s.abandon i k).params = s.params := by
  rcases s.abandon_cases i k with h | ⟨n, e, landed, -, -, h⟩ <;> simp [h]

theorem exec_params {i : Instr} {s t : State} (h : exec i s = .next t) : t.params = s.params := by
  rw [exec_next] at h
  obtain rfl := Host.Outcome.next.inj h
  exact execState_params i s

theorem execThenReset_params {i : Instr} {k : Nat} {s t : State} (h : execThenReset i k s = .next t) :
    t.params = s.params := by
  rw [execThenReset_next] at h
  obtain rfl := Host.Outcome.next.inj h
  split
  · exact s.abandon_params i k
  · simp [State.resetBlock]

theorem sequencerStep_params {s t : State} (h : sequencerStep s = .next t) : t.params = s.params := by
  rcases sequencerStep_cases h with ⟨-, rfl⟩ | ⟨-, -, -, e, -, rfl | ⟨landed, rfl | rfl⟩⟩ <;> simp

/-- Settles O60: each kind of turn ends in an operation that keeps the parameters. -/
theorem parametersNeverChange : Obligations.ParametersNeverChange := by
  intro s t h
  rcases step_cases h with ⟨-, h⟩ | ⟨turn, rest, -, hturn⟩
  · exact sequencerStep_params h
  · rcases hturn with ⟨-, h⟩ | ⟨f, b, i, -, -, -, h⟩ | ⟨f, b, k, i, -, -, -, h⟩ | ⟨text, i, -, -, h⟩
      | ⟨asm, offer, rfl⟩
    · exact sequencerStep_params (s := { s with turns := rest }) h
    · exact exec_params (s := { s with turns := rest }) h
    · exact execThenReset_params (s := { s with turns := rest }) h
    · exact exec_params (s := { s with turns := rest }) h
    · rfl

end Sys2Proof.Machine
end

section
/-! SUPPORT. The invariant `Inv` of the outputs, the memory and the registers, under every operation of the model, from
RESET and one event up to the step; and that no step from a state that meets it faults. -/

namespace Sys2Proof.Machine

/-! ### The outputs after an event (20_memory.md R37) -/

theorem State.perform_outputsFollow (s : State) (e : Prim) : (s.perform e).outputsFollow := by
  cases e with
  | set p v => exact s.drive_outputsFollow p v
  | wait d => exact s.settle_outputsFollow

theorem State.failPrim_outputsFollow (s : State) (landed : Bool) (e : Prim) :
    (s.failPrim landed e).outputsFollow := by
  cases e with
  | set p v => exact s.drive_outputsFollow p _
  | wait d => exact s.settle_outputsFollow

theorem State.reject_outputsFollow (s : State) (landed : Bool) (e : Prim) :
    (s.reject landed e).outputsFollow := by
  rw [State.reject_eq]
  rcases State.ioError_cases (((s.failPrim landed e).record (e.event s.cfg) false).spend) s.aCnt s.j with
    ⟨-, h⟩ | ⟨-, h⟩ <;> rw [h] <;> exact s.failPrim_outputsFollow landed e

/-- An aborted shift loses `SR` only where the outputs are not released (log 11). -/
theorem State.loseShift_outputsFollow (s : State) (h : s.outputsFollow) : s.loseShift.outputsFollow := by
  intro hmode hlatch
  have hreleased : s.released := ⟨hmode, hlatch⟩
  rw [State.loseShift_sr, if_pos hreleased]
  exact h hmode hlatch

/-! ### States that meet the invariant -/

theorem Cfg.eventCount_pos (c : Cfg) : 0 < c.eventCount := by
  unfold Cfg.eventCount
  omega

theorem Cfg.eventCount_le (c : Cfg) : c.eventCount ≤ 37 := by
  have := c.offset_le
  unfold Cfg.eventCount
  omega

/-- The invariant reads the registers `PHASE`, `CODE`, `CFG`, `A_CNT` and `J`, the outputs and the memory, and nothing
else. -/
theorem Inv.congr {s t : State} (h : Inv s) (hphase : t.phase = s.phase) (hcode : t.code = s.code)
    (hcfg : t.cfg = s.cfg) (haCnt : t.aCnt = s.aCnt) (hj : t.j = s.j) (hout : t.outputsFollow)
    (hm : Memory.wf t.m = true) : Inv t where
  outputs := hout
  memory := hm
  cfg := hcfg ▸ h.cfg
  address := haCnt ▸ h.address
  event := hj ▸ h.event
  idle := by
    rw [hphase, hcode, haCnt]
    exact h.idle
  run := by
    rw [hphase, hcode, haCnt, hj, hcfg]
    exact h.run
  done := by
    rw [hphase, hcode, haCnt, hj]
    exact h.done
  fault := by
    rw [hphase, hcode]
    exact h.fault

/-- The host's side is no part of the invariant. -/
theorem Inv.withHost {s : State} (h : Inv s) (turns : List Turn) (offer : LoadData) (reply : Option Reply)
    (asm : Asm) : Inv { s with turns := turns, offer := offer, reply := reply, asm := asm } :=
  h.congr rfl rfl rfl rfl rfl h.outputs h.memory

/-- The word being shifted is no part of the invariant. -/
theorem Inv.withW {s : State} (h : Inv s) (w : Byte) : Inv { s with w := w } :=
  h.congr rfl rfl rfl rfl rfl h.outputs h.memory

/-- In FAULT the invariant asks for a code of the block and a position in range (60_exceptions.md R112, R115). -/
theorem Inv.of_fault {t : State} (hphase : t.phase = .fault)
    (hcode : t.code = codeHardwareIOError ∨ t.code = codeConfigRefused) (hcfg : t.cfg.legal = true)
    (haCnt : t.aCnt.toNat ≤ 16) (hj : t.j.toNat ≤ 36) (hout : t.outputsFollow) (hm : Memory.wf t.m = true) :
    Inv t where
  outputs := hout
  memory := hm
  cfg := hcfg
  address := haCnt
  event := hj
  idle := by simp [hphase]
  run := by simp [hphase]
  done := by simp [hphase]
  fault := fun _ => hcode

/-- In RUN the invariant asks for code 0 and a position within the image and the event list (10_state.md R19). -/
theorem Inv.of_run {t : State} (hphase : t.phase = .run) (hcode : t.code = codeNone) (hcfg : t.cfg.legal = true)
    (haCnt : t.aCnt.toNat < 16) (hj : t.j.toNat < t.cfg.eventCount) (hout : t.outputsFollow)
    (hm : Memory.wf t.m = true) : Inv t where
  outputs := hout
  memory := hm
  cfg := hcfg
  address := haCnt.le
  event := by
    have := t.cfg.eventCount_le
    omega
  idle := by simp [hphase]
  run := fun _ => ⟨hcode, haCnt, hj⟩
  done := by simp [hphase]
  fault := by simp [hphase]

/-- In IDLE the invariant asks for code 0 and address 0 (10_state.md R18, R30). -/
theorem Inv.of_idle {t : State} (hphase : t.phase = .idle) (hcode : t.code = codeNone) (hcfg : t.cfg.legal = true)
    (haCnt : t.aCnt = 0) (hj : t.j.toNat ≤ 36) (hout : t.outputsFollow) (hm : Memory.wf t.m = true) :
    Inv t where
  outputs := hout
  memory := hm
  cfg := hcfg
  address := by simp [haCnt]
  event := hj
  idle := fun _ => ⟨hcode, haCnt⟩
  run := by simp [hphase]
  done := by simp [hphase]
  fault := by simp [hphase]

/-- In DONE the invariant asks for code 0, address 16 and event 0 (10_state.md R22). -/
theorem Inv.of_done {t : State} (hphase : t.phase = .done) (hcode : t.code = codeNone) (hcfg : t.cfg.legal = true)
    (haCnt : t.aCnt = 16) (hj : t.j = 0) (hout : t.outputsFollow) (hm : Memory.wf t.m = true) : Inv t where
  outputs := hout
  memory := hm
  cfg := hcfg
  address := by simp [haCnt]
  event := by simp [hj]
  idle := by simp [hphase]
  run := by simp [hphase]
  done := fun _ => ⟨hcode, haCnt, hj⟩
  fault := by simp [hphase]

/-! ### RESET, LOAD and the faults -/

/-- Settles O52: reset leaves IDLE at address 0 with the default configuration and no cell listed. -/
theorem resetMeetsTheInvariant : Obligations.ResetMeetsTheInvariant :=
  Inv.of_idle rfl rfl rfl rfl (by decide) (fun _ hlatch => absurd hlatch (by decide)) State.reset_wf

theorem State.resetWith_inv (s : State) (aborted : Bool) (hm : Memory.wf s.m = true) :
    Inv (s.resetWith aborted) :=
  Inv.of_idle rfl rfl rfl rfl (by simp) (fun _ hlatch => absurd hlatch (by simp [Lines.reset]))
    (s.resetWith_wf aborted hm)

theorem Inv.startLoad {s : State} (h : Inv s) (c : Cfg) (words : Vector Byte 16) (hc : c.legal = true) :
    Inv (s.startLoad c words) :=
  Inv.of_run rfl rfl hc (by simp) (by simpa using c.eventCount_pos) h.outputs h.memory

theorem Inv.raiseFault {s : State} (h : Inv s) {code : BitVec 3} {a : BitVec 5} {j : BitVec 6}
    (hcode : code = codeHardwareIOError ∨ code = codeConfigRefused) (ha : a.toNat ≤ 16) (hj : j.toNat ≤ 36) :
    Inv (s.raiseFault code a j) :=
  Inv.of_fault rfl hcode h.cfg ha hj h.outputs h.memory

theorem Inv.loseShift {s : State} (h : Inv s) : Inv s.loseShift :=
  h.congr rfl rfl rfl rfl rfl (s.loseShift_outputsFollow h.outputs) h.memory

/-! ### Events -/

theorem Inv.accept {s : State} (h : Inv s) (e : Prim) : Inv (s.accept e) := by
  obtain ⟨⟨hphase, haCnt, hj, -, hcode, hcfg, -⟩, -⟩ := s.accept_frame e
  exact h.congr hphase hcode hcfg haCnt hj (s.perform_outputsFollow e) (s.accept_wf e h.memory)

theorem Inv.reject {s : State} (h : Inv s) (landed : Bool) (e : Prim) : Inv (s.reject landed e) := by
  obtain ⟨⟨hphase, hcode, haCnt, hj⟩, -, hcfg, -⟩ := s.reject_frame landed e
  refine Inv.of_fault hphase ?_ (hcfg ▸ h.cfg) (haCnt ▸ h.address) (hj ▸ h.event)
    (s.reject_outputsFollow landed e) (s.reject_wf landed e h.memory)
  rw [hcode]
  split
  · exact h.fault ‹_›
  · exact .inl rfl

theorem Inv.attempt {s : State} (h : Inv s) (e : Prim) : Inv (s.attempt e).1 := by
  rcases s.attempt_cases e with ⟨-, he⟩ | ⟨landed, -, he⟩ <;> rw [he]
  · exact h.accept e
  · exact h.reject landed e

theorem Inv.acceptAll {s : State} (h : Inv s) (es : List Prim) : Inv (s.acceptAll es) := by
  induction es generalizing s with
  | nil => exact h
  | cons e rest ih => exact ih (h.accept e)

theorem Inv.runPrims {s : State} (h : Inv s) (k : Nat) (es : List Prim) : Inv (s.runPrims k es).1 := by
  rcases s.runPrims_cases k es with hr | ⟨n, e, landed, -, hr⟩ <;> rw [hr]
  · exact h.acceptAll es
  · exact (h.acceptAll _).reject landed e

/-! ### What follows an operation's events -/

theorem afterShiftout_inv {r : State × Option Nat} (h : Inv r.1) : Inv (afterShiftout r) := by
  obtain ⟨t, _ | k⟩ := r
  · exact h
  · simp only [afterShiftout]
    split
    · exact h.loseShift
    · exact h

theorem Phase.eq_idle_or_run_of_not_keepsJ {p : Phase} (h : p.keepsJ = false) : p = .idle ∨ p = .run := by
  cases p with
  | idle => exact .inl rfl
  | run => exact .inr rfl
  | done | fault => cases h

/-- Outside DONE and FAULT the invariant leaves `J` free within the event list. -/
theorem Inv.withJ {s : State} (h : Inv s) (j : BitVec 6) (hkeeps : s.phase.keepsJ = false)
    (hj : j.toNat < s.cfg.eventCount) : Inv { s with j := j } := by
  rcases Phase.eq_idle_or_run_of_not_keepsJ hkeeps with hp | hp
  · obtain ⟨hcode, haCnt⟩ := h.idle hp
    have hle : j.toNat ≤ 36 := by
      have := s.cfg.eventCount_le
      omega
    exact Inv.of_idle hp hcode h.cfg haCnt hle h.outputs h.memory
  · obtain ⟨hcode, haCnt, -⟩ := h.run hp
    exact Inv.of_run hp hcode h.cfg haCnt hj h.outputs h.memory

/-- The position a stopped LOADWORD records is within the image and the event list (45_load_sequencer.md R99). -/
theorem Inv.stopLoadword {t : State} (h : Inv t) (p : Phase) (a : Nibble) {k : Nat} (hk : k ≤ 36) :
    Inv (t.stopLoadword p a k) := by
  unfold State.stopLoadword
  split
  · exact h
  · refine h.raiseFault (.inl rfl) ?_ ?_
    · have := a.isLt
      rw [BitVec.toNat_setWidth]
      omega
    · rw [BitVec.toNat_ofNat]
      omega

theorem afterLoadword_inv_of_performed {s t : State} (h : Inv t) (a : Nibble) (hphase : t.phase = s.phase)
    (hcfg : t.cfg = s.cfg) : Inv (afterLoadword a s (t, none)) := by
  simp only [afterLoadword]
  split
  · exact h
  · rename_i hkeeps
    have hpos := s.cfg.eventCount_pos
    refine h.withJ _ (by simpa [hphase] using hkeeps) ?_
    rw [hcfg, BitVec.toNat_ofNat]
    omega

theorem afterLoadword_inv_of_stopped {s t : State} (h : Inv t) (a : Nibble) {k : Nat} (hk : k ≤ 36) :
    Inv (afterLoadword a s (t, some k)) := by
  have hstop := h.stopLoadword s.phase a hk
  simp only [afterLoadword]
  split
  · exact hstop.loseShift
  · exact hstop

/-- The position moves within the image and the event list, or the load is DONE (45_load_sequencer.md R103). -/
theorem Inv.advance {s : State} (h : Inv s) (hp : s.phase = .run) : Inv s.advance := by
  obtain ⟨hcode, haCnt, hj⟩ := h.run hp
  have hle := s.cfg.eventCount_le
  rcases s.advance_cases with ⟨hne, he⟩ | ⟨-, hne, he⟩ | ⟨-, hlast, he⟩ <;> rw [he]
  · refine Inv.of_run hp hcode h.cfg haCnt ?_ h.outputs h.memory
    show (s.j + 1).toNat < s.cfg.eventCount
    bv_omega
  · refine Inv.of_run hp hcode h.cfg ?_ s.cfg.eventCount_pos h.outputs h.memory
    show (s.aCnt + 1).toNat < 16
    bv_omega
  · refine Inv.of_done rfl hcode h.cfg ?_ rfl h.outputs h.memory
    show s.aCnt + 1 = 16
    bv_omega

/-! ### Instructions, the sequencer and the step -/

theorem execState_loadword_inv {s : State} (h : Inv s) (a : Nibble) : Inv (execState (.loadword a) s) := by
  have hfetch : Inv (s.fetchWord a) := h.withW _
  show Inv (afterLoadword a s ((s.fetchWord a).runPrims 0 (eventList a (imgRead s.img a) s.cfg)))
  rcases (s.fetchWord a).runPrims_cases 0 (eventList a (imgRead s.img a) s.cfg) with
    hr | ⟨n, e, landed, hn, hr⟩ <;> rw [hr]
  · obtain ⟨⟨hphase, -, -, -, -, hcfg, -⟩, -⟩ :=
      (s.fetchWord a).acceptAll_frame (eventList a (imgRead s.img a) s.cfg)
    exact afterLoadword_inv_of_performed (hfetch.acceptAll _) a hphase hcfg
  · have hk : 0 + n ≤ 36 := by
      have hlt := (List.getElem?_eq_some_iff.1 hn).1
      have hle := s.cfg.eventCount_le
      rw [eventList_length] at hlt
      omega
    exact afterLoadword_inv_of_stopped ((hfetch.acceptAll _).reject landed e) a hk

theorem execState_load_inv {s : State} (h : Inv s) (o : Order) : Inv (execState (.load o) s) := by
  show Inv (if s.phase = .run then _ else _)
  split
  · exact h.withHost _ _ _ _
  · split
    · exact h.startLoad _ _ (s.offer.cfg_legal o ‹_›)
    · exact h.raiseFault (.inr rfl) (by simp) (by simp)

theorem execState_inv {s : State} (h : Inv s) (i : Instr) : Inv (execState i s) := by
  cases i with
  | nop | lda | add | sub | sta | ldi | jmp | jc | jz | out | hlt | literal | readStatus =>
    exact h.withHost _ _ _ _
  | setpin | wait => exact h.attempt _
  | addrsel | shbegin | shbit | latch | wrpulse | gap => exact h.runPrims 0 _
  | shiftout => exact afterShiftout_inv (h.runPrims 0 _)
  | loadword a => exact execState_loadword_inv h a
  | load o => exact execState_load_inv h o
  | reset => exact s.resetWith_inv _ h.memory

theorem exec_inv {s t : State} (h : Inv s) {i : Instr} (hx : exec i s = .next t) : Inv t := by
  rw [exec_next] at hx
  obtain rfl := Host.Outcome.next.inj hx
  exact execState_inv h i

theorem execThenReset_inv {s t : State} (h : Inv s) {i : Instr} {k : Nat} (hx : execThenReset i k s = .next t) :
    Inv t := by
  rw [execThenReset_next] at hx
  obtain rfl := Host.Outcome.next.inj hx
  split
  · rcases s.abandon_cases i k with ha | ⟨n, e, landed, -, -, ha⟩ <;> rw [ha]
    · exact State.resetWith_inv _ _ (h.acceptAll _).memory
    · exact State.resetWith_inv _ _ ((h.acceptAll _).reject landed e).memory
  · exact State.resetWith_inv _ _ (execState_inv h i).memory

theorem sequencerStep_inv {s t : State} (h : Inv s) (hx : sequencerStep s = .next t) : Inv t := by
  have hb : Inv s.beginEvent := by
    rw [s.beginEvent_eq]
    exact h.withW _
  rcases sequencerStep_cases hx with ⟨-, rfl⟩ | ⟨hp, -, -, e, -, rfl | ⟨landed, rfl | rfl⟩⟩
  · exact h
  · refine (hb.accept e).advance ?_
    simpa [State.accept, s.beginEvent_eq] using hp
  · exact hb.reject landed e
  · exact (hb.reject landed e).loseShift

/-- Settles O53: each kind of turn ends in an operation that keeps the invariant. -/
theorem stepKeepsTheInvariant : Obligations.StepKeepsTheInvariant := by
  intro s t h hstep
  have hrest (rest : List Turn) : Inv { s with turns := rest } := h.withHost _ _ _ _
  rcases step_cases hstep with ⟨-, hx⟩ | ⟨turn, rest, -, hturn⟩
  · exact sequencerStep_inv h hx
  · rcases hturn with ⟨-, hx⟩ | ⟨f, b, i, -, -, -, hx⟩ | ⟨f, b, k, i, -, -, -, hx⟩ | ⟨text, i, -, -, hx⟩
      | ⟨asm, offer, rfl⟩
    · exact sequencerStep_inv (hrest rest) hx
    · exact exec_inv (hrest rest) hx
    · exact execThenReset_inv (hrest rest) hx
    · exact exec_inv (hrest rest) hx
    · exact h.withHost _ _ _ _

/-! ### The model's faults -/

/-- In RUN the position of a state that meets the invariant names a word and an event, so the sequencer has a
step. -/
theorem sequencerStep_ne_fault {s : State} (h : Inv s) (f : Fault) : sequencerStep s ≠ .fault f := by
  by_cases hp : s.phase = .run
  · obtain ⟨-, haCnt, hj⟩ := h.run hp
    have hlt : s.j.toNat < (eventList s.address s.beginEvent.w s.cfg).length := by simpa using hj
    rw [sequencerStep_run s _ hp haCnt (List.getElem?_eq_getElem hlt)]
    exact nofun
  · rw [sequencerStep_wait s hp]
    exact nofun

/-- Only the sequencer's move faults: every other turn answers a next state or is refused. -/
theorem takeTurn_fault {turn : Turn} {s : State} {f : Fault} (h : takeTurn turn s = .fault f) :
    turn = .sequencer ∧ sequencerStep s = .fault f := by
  cases turn with
  | sequencer => exact ⟨rfl, h⟩
  | code fmt b =>
    simp only [takeTurn] at h
    split at h
    · simp [exec_next] at h
    · cases h
  | codeThenReset fmt b k =>
    simp only [takeTurn] at h
    split at h
    · simp [execThenReset_next] at h
    · cases h
  | line text =>
    simp only [takeTurn] at h
    split at h
    · simp [exec_next] at h
    · cases h
  | offer | beginListing | endListing => cases h

/-- Settles O54: a fault is the sequencer's, and the sequencer has a step at every position the invariant allows. -/
theorem invariantExcludesFaults : Obligations.InvariantExcludesFaults := by
  intro s f h hstep
  unfold step at hstep
  split at hstep
  · exact sequencerStep_ne_fault h f hstep
  · rename_i turn rest _
    have hrest : Inv { s with turns := rest } := h.withHost _ _ _ _
    exact sequencerStep_ne_fault hrest f (takeTurn_fault hstep).2

end Sys2Proof.Machine
end

section
/-! SUPPORT. The registers, the lines and the host's side after RESET (10_state.md R30, 70_reset_and_hazards.md
R130). -/

namespace Sys2Proof.Machine

@[simp] theorem State.resetWith_statusWord (s : State) (aborted : Bool) : (s.resetWith aborted).statusWord = 0 := by
  simp [State.statusWord, codeNone, Phase.bits]

/-- RESET leaves the host's side as it is (log 15). -/
theorem State.resetWith_sameHost (s : State) (aborted : Bool) : SameHost s (s.resetWith aborted) :=
  ⟨s.resetWith_params aborted, s.resetWith_turns aborted, s.resetWith_offer aborted, s.resetWith_reply aborted,
    s.resetWith_asm aborted⟩

/-- Settles O44: RESET writes every register and ghost, and its drives end with the lines at their reset levels. -/
theorem resetSetsEveryRegister : Obligations.ResetSetsEveryRegister := by
  intro s
  refine ⟨s.resetWith s.withinShift, rfl, ?_⟩
  simp [codeNone, Cfg.default, Lines.reset, s.resetWith_sameHost s.withinShift]

end Sys2Proof.Machine
end

section
/-! SUPPORT. Two states that differ only in the target, under every operation of the model: they stay such, and the pin
path, the sequencer and the host's commands do the same in both (10_state.md R27, 20_memory.md R48). -/

namespace Sys2Proof.Machine

/-- The states differ at most in the target's `SR`, `Q` and `M`. -/
def SameButTarget (s t : State) : Prop :=
  ∃ (sr q : Byte) (m : Memory), t = { s with sr := sr, q := q, m := m }

/-- The outcomes are of the same kind, with the same reason, or with next states that differ at most in the target. -/
inductive SameOutcome : Host.Outcome State Fault Refusal → Host.Outcome State Fault Refusal → Prop where
  | next {s t : State} (h : SameButTarget s t) : SameOutcome (.next s) (.next t)
  | fault (r : Fault) : SameOutcome (.fault r) (.fault r)
  | refused (r : Refusal) : SameOutcome (.refused r) (.refused r)

/-! ### Events -/

theorem SameButTarget.accept {s t : State} (h : SameButTarget s t) (e : Prim) :
    SameButTarget (s.accept e) (t.accept e) := by
  obtain ⟨sr, q, m, rfl⟩ := h
  cases e with
  | set | wait => exact ⟨_, _, _, rfl⟩

theorem SameButTarget.ioError {s t : State} (h : SameButTarget s t) (a : BitVec 5) (j : BitVec 6) :
    SameButTarget (s.ioError a j) (t.ioError a j) := by
  obtain ⟨sr, q, m, rfl⟩ := h
  unfold State.ioError
  split <;> exact ⟨_, _, _, rfl⟩

theorem SameButTarget.reject {s t : State} (h : SameButTarget s t) (landed : Bool) (e : Prim) :
    SameButTarget (s.reject landed e) (t.reject landed e) := by
  obtain ⟨sr, q, m, rfl⟩ := h
  refine SameButTarget.ioError ?_ s.aCnt s.j
  cases e with
  | set | wait => exact ⟨_, _, _, rfl⟩

/-- The pin path's answers are no part of the target. -/
theorem SameButTarget.answerAt {s t : State} (h : SameButTarget s t) (k : Nat) : t.answerAt k = s.answerAt k := by
  obtain ⟨sr, q, m, rfl⟩ := h
  rfl

theorem SameButTarget.attempt {s t : State} (h : SameButTarget s t) (e : Prim) :
    SameButTarget (s.attempt e).1 (t.attempt e).1 ∧ (t.attempt e).2 = (s.attempt e).2 := by
  rcases s.attempt_cases e with ⟨ha, hs⟩ | ⟨landed, ha, hs⟩ <;> rw [← h.answerAt 0] at ha
  · rw [hs, t.attempt_ok e ha]
    exact ⟨h.accept e, rfl⟩
  · rw [hs, t.attempt_fail e landed ha]
    exact ⟨h.reject landed e, rfl⟩

theorem SameButTarget.runPrims {s t : State} (h : SameButTarget s t) (k : Nat) (es : List Prim) :
    SameButTarget (s.runPrims k es).1 (t.runPrims k es).1 ∧ (t.runPrims k es).2 = (s.runPrims k es).2 := by
  induction es generalizing s t k with
  | nil => exact ⟨h, rfl⟩
  | cons e rest ih =>
    have hstep := h.attempt e
    unfold State.runPrims
    generalize s.attempt e = rs at hstep ⊢
    generalize t.attempt e = rt at hstep ⊢
    obtain ⟨s', oks⟩ := rs
    obtain ⟨t', okt⟩ := rt
    obtain ⟨hst, rfl⟩ := hstep
    cases okt with
    | true => exact ih hst (k + 1)
    | false => exact ⟨hst, rfl⟩

/-! ### What follows an operation's events -/

theorem SameButTarget.loseShift {s t : State} (h : SameButTarget s t) : SameButTarget s.loseShift t.loseShift := by
  obtain ⟨sr, q, m, rfl⟩ := h
  exact ⟨_, _, _, rfl⟩

theorem SameButTarget.advance {s t : State} (h : SameButTarget s t) : SameButTarget s.advance t.advance := by
  obtain ⟨sr, q, m, rfl⟩ := h
  unfold State.advance
  dsimp only
  split_ifs <;> exact ⟨_, _, _, rfl⟩

theorem SameButTarget.stopLoadword {s t : State} (h : SameButTarget s t) (p : Phase) (a : Nibble) (k : Nat) :
    SameButTarget (s.stopLoadword p a k) (t.stopLoadword p a k) := by
  obtain ⟨sr, q, m, rfl⟩ := h
  unfold State.stopLoadword
  split <;> exact ⟨_, _, _, rfl⟩

theorem SameButTarget.resetWith {s t : State} (h : SameButTarget s t) (aborted : Bool) :
    SameButTarget (s.resetWith aborted) (t.resetWith aborted) := by
  obtain ⟨sr, q, m, rfl⟩ := h
  exact ⟨_, _, _, rfl⟩

theorem SameButTarget.beginEvent {s t : State} (h : SameButTarget s t) : SameButTarget s.beginEvent t.beginEvent := by
  obtain ⟨sr, q, m, rfl⟩ := h
  rw [State.beginEvent_eq, State.beginEvent_eq]
  exact ⟨_, _, _, rfl⟩

theorem SameButTarget.endListing {s t : State} (h : SameButTarget s t) : SameButTarget s.endListing t.endListing := by
  obtain ⟨sr, q, m, rfl⟩ := h
  unfold State.endListing
  dsimp only
  split
  · exact ⟨_, _, _, rfl⟩
  · split <;> exact ⟨_, _, _, rfl⟩

theorem afterShiftout_sameButTarget {rs rt : State × Option Nat} (h : SameButTarget rs.1 rt.1)
    (hstop : rt.2 = rs.2) : SameButTarget (afterShiftout rs) (afterShiftout rt) := by
  obtain ⟨s, _ | k⟩ := rs <;> obtain ⟨t, _⟩ := rt <;> subst hstop
  · exact h
  · simp only [afterShiftout]
    split
    · exact h.loseShift
    · exact h

theorem afterLoadword_sameButTarget {s t : State} {rs rt : State × Option Nat} (h : SameButTarget s t) (a : Nibble)
    (hr : SameButTarget rs.1 rt.1) (hstop : rt.2 = rs.2) :
    SameButTarget (afterLoadword a s rs) (afterLoadword a t rt) := by
  obtain ⟨sr, q, m, rfl⟩ := h
  obtain ⟨u, _ | k⟩ := rs <;> obtain ⟨v, _⟩ := rt <;> subst hstop <;> simp only [afterLoadword]
  · split
    · exact hr
    · obtain ⟨sr, q, m, rfl⟩ := hr
      exact ⟨_, _, _, rfl⟩
  · have hstopped := hr.stopLoadword s.phase a k
    split
    · exact hstopped.loseShift
    · exact hstopped

theorem afterSequencerEvent_sameButTarget {rs rt : State × Bool} (h : SameButTarget rs.1 rt.1) (hok : rt.2 = rs.2) :
    SameButTarget (afterSequencerEvent rs) (afterSequencerEvent rt) := by
  obtain ⟨s, _ | _⟩ := rs <;> obtain ⟨t, _⟩ := rt <;> subst hok <;> simp only [afterSequencerEvent]
  · have hlost := h.loseShift
    obtain ⟨sr, q, m, rfl⟩ := h
    split
    · exact hlost
    · exact ⟨_, _, _, rfl⟩
  · exact h.advance

/-! ### Instructions, the sequencer and the step -/

theorem SameButTarget.fetchWord {s t : State} (h : SameButTarget s t) (a : Nibble) :
    SameButTarget (s.fetchWord a) (t.fetchWord a) := by
  obtain ⟨sr, q, m, rfl⟩ := h
  exact ⟨_, _, _, rfl⟩

theorem execState_sameButTarget {s t : State} (h : SameButTarget s t) (i : Instr) :
    SameButTarget (execState i s) (execState i t) := by
  cases i with
  | setpin | wait => exact (h.attempt _).1
  | shbegin | shbit | latch | wrpulse | gap => exact (h.runPrims 0 _).1
  | addrsel a =>
    have hr := h.runPrims 0 (addrselPrims a s.cfg)
    obtain ⟨sr, q, m, rfl⟩ := h
    exact hr.1
  | shiftout o =>
    have hr := h.runPrims 0 (shiftoutPrims s.w o)
    obtain ⟨sr, q, m, rfl⟩ := h
    exact afterShiftout_sameButTarget hr.1 hr.2
  | loadword a =>
    have hr := (h.fetchWord a).runPrims 0 (eventList a (imgRead s.img a) s.cfg)
    have hafter := afterLoadword_sameButTarget h a hr.1 hr.2
    obtain ⟨sr, q, m, rfl⟩ := h
    exact hafter
  | load o =>
    obtain ⟨sr, q, m, rfl⟩ := h
    simp only [execState, exec, execLoad]
    split
    · exact ⟨_, _, _, rfl⟩
    · split <;> exact ⟨_, _, _, rfl⟩
  | nop | lda | add | sub | sta | ldi | jmp | jc | jz | out | hlt | literal | readStatus | reset =>
    obtain ⟨sr, q, m, rfl⟩ := h
    exact ⟨_, _, _, rfl⟩

theorem exec_sameOutcome {s t : State} (h : SameButTarget s t) (i : Instr) : SameOutcome (exec i s) (exec i t) := by
  rw [exec_next, exec_next]
  exact .next (execState_sameButTarget h i)

theorem SameButTarget.resetBlock {s t : State} (h : SameButTarget s t) : SameButTarget s.resetBlock t.resetBlock := by
  have hreset := h.resetWith s.withinShift
  obtain ⟨sr, q, m, rfl⟩ := h
  exact hreset

theorem SameButTarget.abandon {s t : State} (h : SameButTarget s t) (i : Instr) (k : Nat) :
    SameButTarget (s.abandon i k) (t.abandon i k) := by
  obtain ⟨hr, hstop⟩ := h.runPrims 0 ((opEvents s i).take k)
  have hreset := hr.resetWith (opAborts s.cfg ((s.runPrims 0 ((opEvents s i).take k)).2.getD k) i)
  obtain ⟨sr, q, m, rfl⟩ := h
  rw [← hstop] at hreset
  exact hreset

theorem execThenReset_sameOutcome {s t : State} (h : SameButTarget s t) (i : Instr) (k : Nat) :
    SameOutcome (execThenReset i k s) (execThenReset i k t) := by
  rw [execThenReset_next, execThenReset_next]
  split
  · exact .next (h.abandon i k)
  · exact .next (execState_sameButTarget h i).resetBlock

theorem sequencerStep_sameOutcome {s t : State} (h : SameButTarget s t) :
    SameOutcome (sequencerStep s) (sequencerStep t) := by
  have hattempt (e : Prim) := h.beginEvent.attempt e
  obtain ⟨hphase, haCnt, hj, hevents⟩ : t.phase = s.phase ∧ t.aCnt = s.aCnt ∧ t.j = s.j
      ∧ eventList t.address t.beginEvent.w t.cfg = eventList s.address s.beginEvent.w s.cfg := by
    obtain ⟨sr, q, m, rfl⟩ := h
    simp [State.beginEvent_eq, State.address]
  simp only [sequencerStep, hphase, haCnt, hj, hevents]
  split
  · split
    · split
      · exact .next (afterSequencerEvent_sameButTarget (hattempt _).1 (hattempt _).2)
      · exact .fault _
    · exact .fault _
  all_goals exact .next h

theorem SameButTarget.issue {s t : State} (h : SameButTarget s t) (f : Format) (b : Byte) :
    t.issue f b = s.issue f b := by
  obtain ⟨sr, q, m, rfl⟩ := h
  rfl

/-- The assembler takes a line alike in both states: the same instruction is to be run, or both states stay. -/
theorem SameButTarget.readLine {s t : State} (h : SameButTarget s t) (text : List Char) :
    (∃ i, s.readLine text = .run i ∧ t.readLine text = .run i)
      ∨ ∃ s' t', s.readLine text = .stays s' ∧ t.readLine text = .stays t' ∧ SameButTarget s' t' := by
  obtain ⟨sr, q, m, rfl⟩ := h
  unfold State.readLine
  dsimp only
  split
  · exact .inr ⟨_, _, rfl, rfl, _, _, _, rfl⟩
  · split
    · exact .inl ⟨_, rfl, rfl⟩
    · exact .inr ⟨_, _, rfl, rfl, _, _, _, rfl⟩

theorem takeTurn_sameOutcome {s t : State} (h : SameButTarget s t) (turn : Turn) :
    SameOutcome (takeTurn turn s) (takeTurn turn t) := by
  cases turn with
  | sequencer => exact sequencerStep_sameOutcome h
  | code f b =>
    simp only [takeTurn, h.issue f b]
    split
    · exact exec_sameOutcome h _
    · exact .refused _
  | codeThenReset f b k =>
    simp only [takeTurn, h.issue f b]
    split
    · exact execThenReset_sameOutcome h _ k
    · exact .refused _
  | offer | beginListing =>
    obtain ⟨sr, q, m, rfl⟩ := h
    exact .next ⟨_, _, _, rfl⟩
  | line text =>
    simp only [takeTurn]
    rcases h.readLine text with ⟨i, hs, ht⟩ | ⟨s', t', hs, ht, hsame⟩ <;> rw [hs, ht]
    · exact exec_sameOutcome h i
    · exact .next hsame
  | endListing => exact .next h.endListing

theorem step_sameOutcome {s t : State} (h : SameButTarget s t) : SameOutcome (step s) (step t) := by
  have hseq := sequencerStep_sameOutcome h
  obtain ⟨sr, q, m, rfl⟩ := h
  unfold step
  dsimp only
  split
  · exact hseq
  · exact takeTurn_sameOutcome ⟨_, _, _, rfl⟩ _

/-- Settles O59: of two states that differ only in the target, every turn takes the same course in both. -/
theorem targetIsNeverReadBack : Obligations.TargetIsNeverReadBack := by
  intro s t sr q m hstep
  have hsame : SameOutcome (step s) (step { s with sr := sr, q := q, m := m }) := step_sameOutcome ⟨sr, q, m, rfl⟩
  rw [hstep] at hsame
  generalize step { s with sr := sr, q := q, m := m } = other at hsame ⊢
  cases hsame with
  | next h =>
    obtain ⟨sr', q', m', rfl⟩ := h
    exact ⟨_, rfl, rfl⟩

end Sys2Proof.Machine
end

section
/-! SUPPORT. An accepted SETPIN and the target's reaction to it: the shift register, the outputs, the memory and the
address, each by the cases of 20_memory.md R33 to R39. -/

namespace Sys2Proof.Machine

/-! ### The accepted event -/

theorem exec_setpin_of_answersOk {s : State} (h : s.answersOk 1) (p : Line) (v : Bool) :
    exec (.setpin p v) s = .next (s.accept (.set p v)) := by
  show Host.Outcome.next (s.attempt (.set p v)).1 = _
  rw [s.attempt_ok _ (State.answersOk_head h)]

@[simp] theorem State.accept_set_lines (s : State) (p : Line) (v : Bool) :
    (s.accept (.set p v)).lines = s.lines.set p v := rfl
@[simp] theorem State.accept_set_sr (s : State) (p : Line) (v : Bool) :
    (s.accept (.set p v)).sr = s.srAfter p v := rfl
@[simp] theorem State.accept_set_q (s : State) (p : Line) (v : Bool) :
    (s.accept (.set p v)).q = s.qAfter p v := rfl
@[simp] theorem State.accept_set_cell (s : State) (p : Line) (v : Bool) :
    (s.accept (.set p v)).cell = (s.drive p v).cell := rfl
@[simp] theorem State.accept_set_readCell (s : State) (p : Line) (v : Bool) (b : Nat) :
    (s.accept (.set p v)).readCell b = (s.drive p v).readCell b := rfl

/-! ### The shift register (20_memory.md R34, R35) -/

/-- The target shifts at a change of CLK to the level its edge ends at. -/
theorem shifts_iff (e : ShiftEdge) (old new : Bool) :
    shifts e old new = true ↔ old ≠ new ∧ new = decide (e = .rising) := by
  cases e <;> cases old <;> cases new <;> decide

theorem State.srAfter_of_edge (s : State) (v : Bool) (hchange : s.lines.clk ≠ v)
    (hedge : v = decide (s.params.shiftEdge = .rising)) :
    s.srAfter .clk v = shiftin s.params.firstBit s.sr s.lines.data :=
  if_pos ⟨rfl, (shifts_iff _ _ _).2 ⟨hchange, hedge⟩⟩

theorem State.srAfter_of_no_edge (s : State) (p : Line) (v : Bool)
    (h : p ≠ .clk ∨ s.lines.clk = v ∨ v ≠ decide (s.params.shiftEdge = .rising)) : s.srAfter p v = s.sr := by
  refine if_neg ?_
  rintro ⟨hp, hshift⟩
  obtain ⟨hchange, hedge⟩ := (shifts_iff _ _ _).1 hshift
  rcases h with h | h | h
  · exact h hp
  · exact hchange h
  · exact h hedge

theorem shiftin_bit0_enters (sr : Byte) (d : Bool) : (shiftin .bit0 sr d).getLsbD 7 = d := by
  rw [shiftin, BitVec.getLsbD_append]
  simp

theorem shiftin_bit0_moves (sr : Byte) (d : Bool) {i : Nat} (h : i < 7) :
    (shiftin .bit0 sr d).getLsbD i = sr.getLsbD (i + 1) := by
  rw [shiftin, BitVec.getLsbD_append]
  simp [h, Nat.add_comm]

theorem shiftin_bit7_enters (sr : Byte) (d : Bool) : (shiftin .bit7 sr d).getLsbD 0 = d := by
  rw [shiftin, BitVec.getLsbD_append]
  simp

theorem shiftin_bit7_moves (sr : Byte) (d : Bool) {i : Nat} (h : i < 7) :
    (shiftin .bit7 sr d).getLsbD (i + 1) = sr.getLsbD i := by
  rw [shiftin, BitVec.getLsbD_append]
  simp [h]

/-- Settles O18: of a SETPIN's two cases, an edge shifts one bit in and no other event touches `SR`. -/
theorem clockEdgeShiftsOneBit : Obligations.ClockEdgeShiftsOneBit := by
  intro p v s hok
  refine ⟨_, exec_setpin_of_answersOk hok p v, s.srAfter_of_no_edge p v, ?_⟩
  rintro ⟨rfl, hchange, hedge⟩
  rw [State.accept_set_sr, s.srAfter_of_edge v hchange hedge]
  constructor <;> intro hlands <;> rw [hlands]
  · exact ⟨shiftin_bit0_enters _ _, fun _ => shiftin_bit0_moves _ _⟩
  · exact ⟨shiftin_bit7_enters _ _, fun _ => shiftin_bit7_moves _ _⟩

/-! ### The outputs (20_memory.md R37) -/

theorem State.qAfter_of_level (s : State) (p : Line) (v : Bool) (h : s.params.latchMode = .level) :
    s.qAfter p v = if (s.lines.set p v).latch = true then s.srAfter p v else s.q := by
  simp [State.qAfter, State.qSettled, State.released, State.setLine, h]

/-- LATCH rises at a drive of LATCH to 1 from 0, and at no other. -/
theorem Lines.latch_rises_iff (l : Lines) (p : Line) (v : Bool) :
    l.latch = false ∧ (l.set p v).latch = true ↔ p = .latch ∧ l.latch = false ∧ v = true := by
  by_cases hp : p = .latch
  · subst hp
    simp [Lines.set]
  · have hkeep : (l.set p v).latch = l.latch := l.get_set_other p .latch v (Ne.symm hp)
    simp [hkeep, hp]

theorem State.qAfter_of_edge (s : State) (p : Line) (v : Bool) (h : s.params.latchMode = .edge) :
    s.qAfter p v
      = if s.lines.latch = false ∧ (s.lines.set p v).latch = true then s.srAfter p v else s.q := by
  simp only [s.lines.latch_rises_iff]
  simp [State.qAfter, State.qSettled, State.released, State.setLine, h]

/-- A drive that changes neither CLK nor LATCH leaves the outputs as an event that changes no line. -/
theorem State.qAfter_eq_qSettled (s : State) (p : Line) (v : Bool)
    (h : s.lines.get p = v ∨ p ≠ .clk ∧ p ≠ .latch) : s.qAfter p v = s.qSettled := by
  rcases h with h | ⟨hclk, hlatch⟩
  · rw [State.qAfter, s.setLine_same p v h]
  · have hkeep : (s.lines.set p v).latch = s.lines.latch := s.lines.get_set_other p .latch v hlatch.symm
    simp [State.qAfter, State.qSettled, State.released, State.setLine, State.srAfter, hkeep, hclk, hlatch]

/-- Where the outputs follow the register already, such a drive leaves them alone. -/
theorem State.qAfter_of_outputsFollow (s : State) (p : Line) (v : Bool) (hout : s.outputsFollow)
    (h : s.lines.get p = v ∨ p ≠ .clk ∧ p ≠ .latch) : s.qAfter p v = s.q :=
  (s.qAfter_eq_qSettled p v h).trans (s.qSettled_of_outputsFollow hout)

theorem ne_clk_and_ne_latch {p : Line} (h : isAddressLine p = true ∨ p = .data) : p ≠ .clk ∧ p ≠ .latch := by
  rcases h with h | rfl
  · constructor <;> rintro rfl <;> cases h
  · exact ⟨nofun, nofun⟩

/-- Settles O19: `Q` by the latch mode, and unchanged where it follows `SR` and neither CLK nor LATCH changes. -/
theorem latchReleasesAndFreezes : Obligations.LatchReleasesAndFreezes := by
  intro p v s hok
  exact ⟨_, exec_setpin_of_answersOk hok p v, s.qAfter_of_level p v, s.qAfter_of_edge p v,
    fun hout hquiet => s.qAfter_of_outputsFollow p v hout (hquiet.imp_right ne_clk_and_ne_latch)⟩

/-! ### The address (20_memory.md R33) -/

/-- Bit `k` of the address is the level of line `A<k>`. -/
theorem Lines.address_bits (l : Lines) :
    l.address.getLsbD 0 = l.a0 ∧ l.address.getLsbD 1 = l.a1 ∧ l.address.getLsbD 2 = l.a2
      ∧ l.address.getLsbD 3 = l.a3 := by
  unfold Lines.address
  refine ⟨?_, ?_, ?_, ?_⟩ <;> rw [BitVec.getLsbD_append, BitVec.getLsbD_append, BitVec.getLsbD_append] <;> simp

/-- Lines that present one address have equal address lines. -/
theorem Lines.get_eq_of_address_eq {l l' : Lines} (h : l.address = l'.address) {p : Line}
    (hp : isAddressLine p = true) : l.get p = l'.get p := by
  obtain ⟨h0, h1, h2, h3⟩ := l.address_bits
  obtain ⟨h0', h1', h2', h3'⟩ := l'.address_bits
  rw [h] at h0 h1 h2 h3
  cases p with
  | a0 => exact h0.symm.trans h0'
  | a1 => exact h1.symm.trans h1'
  | a2 => exact h2.symm.trans h2'
  | a3 => exact h3.symm.trans h3'
  | data | clk | latch | weN => cases hp

/-- A change of an address line moves the address. -/
theorem State.drive_cell_ne (s : State) (p : Line) (v : Bool) (hp : isAddressLine p = true)
    (hchange : s.lines.get p ≠ v) : (s.drive p v).cell ≠ s.cell := by
  intro hcell
  have hget := Lines.get_eq_of_address_eq (BitVec.eq_of_toNat_eq hcell) hp
  rw [State.drive_lines, Lines.get_set_same] at hget
  exact hchange hget.symm

/-- A drive that changes no address line leaves the address alone. -/
theorem State.drive_cell (s : State) (p : Line) (v : Bool) (h : s.lines.get p = v ∨ isAddressLine p = false) :
    (s.drive p v).cell = s.cell := by
  rcases h with rfl | h
  · simp [State.cell]
  · simp [State.cell, s.lines.address_set p v h]

/-! ### The memory (20_memory.md R38, R39, R43) -/

theorem State.drive_readCell_of_weN (s : State) (p : Line) (v : Bool) (h : (s.lines.set p v).weN = true) (b : Nat) :
    (s.drive p v).readCell b = s.readCell b := by
  rw [State.readCell, s.drive_m_of_weN p v h, State.readCell]

/-- With the write enable active after a drive that does not move the address, the addressed cell holds `Q`. -/
theorem State.drive_readCell_cell (s : State) (p : Line) (v : Bool)
    (h : s.lines.get p = v ∨ isAddressLine p = false) (hw : (s.lines.set p v).weN = false) :
    (s.drive p v).readCell (s.drive p v).cell = some (s.drive p v).q := by
  rcases s.mAfter_cases p v with ⟨hw', -⟩ | ⟨-, -, hm⟩ | ⟨-, hchange, hp, -⟩
  · exact absurd (hw'.symm.trans hw) (by decide)
  · rw [State.readCell, State.drive_m, hm]
    exact Memory.read_write_same _ _ _
  · rcases h with h | h
    · exact absurd h hchange
    · exact absurd (hp.symm.trans h) (by decide)

/-- An event that changes no line changes nothing of a settled target. -/
theorem State.settle_sameTarget {s : State} (h : s.settled) : SameTarget s s.settle := by
  obtain ⟨hout, hcommitted⟩ := h
  have hq := s.qSettled_of_outputsFollow hout
  refine ⟨rfl, hq, fun b => ?_⟩
  rw [State.readCell, State.settle_m]
  rcases s.mSettled_cases with ⟨-, hm⟩ | ⟨hw, hm⟩ <;> rw [hm]
  · rfl
  · rw [Memory.read_write, hq]
    split
    · rename_i hb
      rw [hb, hcommitted hw]
    · rfl

/-- Settles O20: the address stays, so the drive reaches the addressed cell alone, and that with `WE_n = 0` only. -/
theorem writeEnableCommitsTheLatchedByte : Obligations.WriteEnableCommitsTheLatchedByte := by
  intro p v s hok hstay
  have hcell := s.drive_cell p v hstay
  refine ⟨_, exec_setpin_of_answersOk hok p v, hcell, fun b hb => ?_, s.drive_readCell_cell p v hstay,
    fun hw => s.drive_readCell_of_weN p v hw _, fun hsettled hlevel => ?_⟩
  · exact s.drive_readCell_other p v b (hcell ▸ hb) hb
  · show SameTarget s (s.drive p v)
    rw [s.drive_same p v hlevel]
    exact State.settle_sameTarget hsettled

/-- Settles O21: an address line is neither CLK, LATCH nor `WE_n`, so a move leaves `SR` and the outputs, and the
memory but for the cell it leaves and the cell it enters. -/
theorem addressMoveTouchesTwoCells : Obligations.AddressMoveTouchesTwoCells := by
  intro p v s hok hp hchange
  have hquiet := ne_clk_and_ne_latch (.inl hp)
  have hwe : p ≠ .weN := by
    rintro rfl
    cases hp
  have hkeep : (s.lines.set p v).weN = s.lines.weN := s.lines.get_set_other p .weN v hwe.symm
  exact ⟨_, exec_setpin_of_answersOk hok p v, s.drive_cell_ne p v hp hchange, s.drive_sr_other p v hquiet.1,
    fun hout => s.qAfter_of_outputsFollow p v hout (.inr hquiet), s.drive_readCell_other p v,
    fun hw => s.drive_readCell_of_weN p v (hkeep.trans hw)⟩

end Sys2Proof.Machine
end

section
/-! SUPPORT. Bytes and their fields (30_encoding.md R49, R53, R57): a byte under a table row's mask is the row's pattern
and the remaining field. -/

namespace Sys2Proof

/-! ### A byte and its two fields -/

theorem extractLsb'_append_self (hi lo : Nat) (b : BitVec (hi + lo)) :
    b.extractLsb' lo hi ++ b.extractLsb' 0 lo = b := by
  rw [BitVec.extractLsb'_append_extractLsb'_eq_extractLsb' (Nat.zero_add lo).symm, BitVec.extractLsb'_eq_self]

/-- The mask of the `hi` upper bits keeps them and clears the others. -/
theorem and_highMask (hi lo : Nat) (b : BitVec (hi + lo)) :
    b &&& (BitVec.allOnes hi ++ 0#lo) = b.extractLsb' lo hi ++ 0#lo := by
  conv_lhs => rw [← extractLsb'_append_self hi lo b]
  rw [BitVec.and_append, BitVec.and_allOnes, BitVec.and_zero]

theorem toNat_and_highMask (hi lo : Nat) (b : BitVec (hi + lo)) :
    (b &&& (BitVec.allOnes hi ++ 0#lo)).toNat = b.toNat / 2 ^ lo * 2 ^ lo := by
  have hlt : b.toNat / 2 ^ lo < 2 ^ hi := Nat.div_lt_of_lt_mul (by simpa [Nat.pow_add, Nat.mul_comm] using b.isLt)
  rw [and_highMask, BitVec.toNat_append, BitVec.extractLsb'_toNat]
  simp [Nat.shiftLeft_eq, Nat.shiftRight_eq_div_pow, Nat.mod_eq_of_lt hlt]

/-- A word that meets the pattern `o` of a row is `o` followed by its remaining field. -/
theorem pattern_append_field {hi lo : Nat} {b : BitVec (hi + lo)} (o : BitVec hi)
    (h : b &&& (BitVec.allOnes hi ++ 0#lo) = o ++ 0#lo) : o ++ b.extractLsb' 0 lo = b := by
  rw [and_highMask, BitVec.append_left_inj] at h
  rw [← h, extractLsb'_append_self]

theorem ofBool_getLsbD_zero (b : Byte) : BitVec.ofBool (b.getLsbD 0) = b.extractLsb' 0 1 := by
  ext i hi
  obtain rfl : i = 0 := by omega
  simp

theorem pattern_append_bit {b : Byte} (o : BitVec 7) (h : b &&& 0xFE = o ++ 0#1) :
    o ++ BitVec.ofBool (b.getLsbD 0) = b := by
  rw [ofBool_getLsbD_zero]
  exact pattern_append_field (lo := 1) o h

/-! ### The nibbles of an instruction word (R49, R53) -/

@[simp] theorem opcodeOf_append (o x : Nibble) : opcodeOf (o ++ x) = o := BitVec.extractLsb'_append_eq_left

@[simp] theorem operandOf_append (o x : Nibble) : operandOf (o ++ x) = x := BitVec.extractLsb'_append_eq_right

theorem opcode_append_operandOf {b : Byte} {o : Nibble} (h : opcodeOf b = o) : o ++ operandOf b = b :=
  h ▸ extractLsb'_append_self 4 4 b

theorem opcodeOf_toNat (b : Byte) : (opcodeOf b).toNat = b.toNat / 16 := by
  have hb := b.isLt
  rw [opcodeOf, BitVec.extractLsb'_toNat, Nat.shiftRight_eq_div_pow]
  omega

theorem operandOf_toNat (b : Byte) : (operandOf b).toNat = b.toNat % 16 := by
  simp [operandOf]

/-! ### The operand fields (R56, R57) -/

@[simp] theorem Line.id_ofId (p : BitVec 3) : (Line.ofId p).id = p := by
  revert p
  decide

@[simp] theorem DelaySel.bits_ofBits (t : BitVec 2) : (DelaySel.ofBits t).bits = t := by
  revert t
  decide

@[simp] theorem Order.bit_ofBit (o : Bool) : (Order.ofBit o).bit = o := by cases o <;> rfl

end Sys2Proof
end

section
/-! SUPPORT. The decoder and the encoder (30_encoding.md R50 to R52, R57, R58): decoding is encoding read backwards, and
the bytes that no instruction has. -/

namespace Sys2Proof

/-- Read in format `f`, byte `b` is the well-formed instruction `i`. -/
def Means (f : Format) (b : Byte) (i : Instr) : Prop := i.format = f ∧ encode i = b ∧ i.wf = true

/-- One test of the decoder's chain: it was met and answered, or the rest of the chain answered. -/
theorem ite_eq_cases {α : Type} {c : Prop} [Decidable c] {x y z : α} (h : (if c then x else y) = z) :
    (c ∧ x = z) ∨ y = z := by
  split at h
  · exact .inl ⟨‹c›, h⟩
  · exact .inr h

@[simp] theorem Decoded.toOption_instr (i : Instr) : (Decoded.instr i).toOption = some i := rfl

@[simp] theorem Decoded.toOption_invalid (e : DecodeError) : (Decoded.invalid e).toOption = none := rfl

/-! ### Decode after encode -/

theorem decode_encode (i : Instr) (h : i.wf = true) : decode i.format (encode i) = .instr i := by
  cases i with
  | nop | out | hlt => rfl
  | lda x | add x | sub x | sta x | ldi x | jmp x | jc x | jz x => simp [decode, encode, decodeWord, Instr.format]
  | literal v => exact if_pos (of_decide_eq_true h)
  | setpin p v => cases p <;> cases v <;> rfl
  | wait d => cases d <;> rfl
  | shbit b => cases b <;> rfl
  | load o | shiftout o => cases o <;> rfl
  | addrsel a | loadword a =>
    revert a
    decide
  | shbegin | latch | wrpulse | gap | readStatus | reset => rfl

/-- Settles O1: one case for each row of the opcode table. -/
theorem decodeOfEncodeIsTheInstruction : Obligations.DecodeOfEncodeIsTheInstruction := decode_encode

/-- Settles O5: each of the thirteen bytes is the encoding of its instruction. -/
theorem writtenWordsDecode : Obligations.WrittenWordsDecode :=
  ⟨decode_encode .nop rfl, decode_encode (.lda 0xE) rfl, decode_encode (.jz 0xF) rfl, decode_encode .out rfl,
    decode_encode (.literal 7) rfl, decode_encode (.setpin .weN false) rfl, decode_encode (.wait .tWe) rfl,
    decode_encode (.addrsel 0xA) rfl, decode_encode (.shbit true) rfl, decode_encode (.loadword 5) rfl,
    decode_encode (.load .msbFirst) rfl, decode_encode (.shiftout .lsbFirst) rfl, decode_encode .reset rfl⟩

/-! ### Encode after decode -/

/-- A word without operand: its operand nibble is 0, so that it is its opcode alone (R50). -/
theorem bareWord_means {b : Byte} {o : Nibble} {i j : Instr} (ho : opcodeOf b = o)
    (hj : Means .sap1Word (o ++ 0#4) j) (h : bareWord b j = .instr i) : Means .sap1Word b i := by
  rcases ite_eq_cases h with ⟨hx, ⟨⟩⟩ | hd
  · rwa [← opcode_append_operandOf ho, hx]
  · cases hd

theorem decodeWord_means {b : Byte} {i : Instr} (hd : decodeWord b = .instr i) : Means .sap1Word b i := by
  unfold decodeWord at hd
  rcases ite_eq_cases hd with ⟨h, hi⟩ | hd
  · exact bareWord_means h ⟨rfl, rfl, rfl⟩ hi
  iterate 8
    rcases ite_eq_cases hd with ⟨h, ⟨⟩⟩ | hd
    · exact ⟨rfl, opcode_append_operandOf h, rfl⟩
  iterate 2
    rcases ite_eq_cases hd with ⟨h, hi⟩ | hd
    · exact bareWord_means h ⟨rfl, rfl, rfl⟩ hi
  cases hd

theorem decodeData_means {b : Byte} {i : Instr} (hd : decodeData b = .instr i) : Means .sap1Data b i := by
  rcases ite_eq_cases hd with ⟨h, ⟨⟩⟩ | hd
  · exact ⟨rfl, rfl, decide_eq_true h⟩
  · cases hd

/-- The byte of a SETPIN is the pattern 0000, the line's id and the level. -/
theorem encode_setpin_fields {b : Byte} (h : b &&& 0xF0 = 0x00) :
    encode (.setpin (Line.ofId (b.extractLsb' 1 3)) (b.getLsbD 0)) = b := by
  rw [encode, Line.id_ofId, ofBool_getLsbD_zero,
    BitVec.extractLsb'_append_extractLsb'_eq_extractLsb' (Nat.zero_add 1).symm]
  exact pattern_append_field (lo := 4) 0x0#4 h

theorem encode_wait_field {b : Byte} (h : b &&& 0xFC = 0x10) :
    encode (.wait (DelaySel.ofBits (b.extractLsb' 0 2))) = b := by
  rw [encode, DelaySel.bits_ofBits]
  exact pattern_append_field (lo := 2) 0b000100#6 h

theorem encode_load_bit {b : Byte} (h : b &&& 0xFE = 0x90) : encode (.load (Order.ofBit (b.getLsbD 0))) = b := by
  rw [encode, Order.bit_ofBit]
  exact pattern_append_bit _ h

theorem encode_shiftout_bit {b : Byte} (h : b &&& 0xFE = 0xB0) :
    encode (.shiftout (Order.ofBit (b.getLsbD 0))) = b := by
  rw [encode, Order.bit_ofBit]
  exact pattern_append_bit _ h

/-- The tests of the sequencer codes one after the other; a code without operand is its own byte. -/
theorem decodeSeq_means {b : Byte} {i : Instr} (hd : decodeSeq b = .instr i) : Means .seqOp b i := by
  unfold decodeSeq at hd
  rcases ite_eq_cases hd with ⟨h, ⟨⟩⟩ | hd
  · exact ⟨rfl, encode_setpin_fields h, rfl⟩
  rcases ite_eq_cases hd with ⟨h, ⟨⟩⟩ | hd
  · exact ⟨rfl, encode_wait_field h, rfl⟩
  rcases ite_eq_cases hd with ⟨h, ⟨⟩⟩ | hd
  · exact ⟨rfl, pattern_append_field (lo := 4) 0x2#4 h, rfl⟩
  rcases ite_eq_cases hd with ⟨rfl, ⟨⟩⟩ | hd
  · exact ⟨rfl, rfl, rfl⟩
  rcases ite_eq_cases hd with ⟨h, ⟨⟩⟩ | hd
  · exact ⟨rfl, pattern_append_bit _ h, rfl⟩
  iterate 3
    rcases ite_eq_cases hd with ⟨rfl, ⟨⟩⟩ | hd
    · exact ⟨rfl, rfl, rfl⟩
  rcases ite_eq_cases hd with ⟨h, ⟨⟩⟩ | hd
  · exact ⟨rfl, pattern_append_field (lo := 4) 0x8#4 h, rfl⟩
  rcases ite_eq_cases hd with ⟨h, ⟨⟩⟩ | hd
  · exact ⟨rfl, encode_load_bit h, rfl⟩
  rcases ite_eq_cases hd with ⟨rfl, ⟨⟩⟩ | hd
  · exact ⟨rfl, rfl, rfl⟩
  rcases ite_eq_cases hd with ⟨h, ⟨⟩⟩ | hd
  · exact ⟨rfl, encode_shiftout_bit h, rfl⟩
  rcases ite_eq_cases hd with ⟨rfl, ⟨⟩⟩ | hd
  · exact ⟨rfl, rfl, rfl⟩
  cases hd

/-- Decoding and encoding are one relation between bytes and well-formed instructions. -/
theorem decode_eq_instr_iff {f : Format} {b : Byte} {i : Instr} : decode f b = .instr i ↔ Means f b i := by
  constructor
  · intro hd
    cases f with
    | sap1Word => exact decodeWord_means hd
    | sap1Data => exact decodeData_means hd
    | seqOp => exact decodeSeq_means hd
  · rintro ⟨rfl, rfl, hwf⟩
    exact decode_encode i hwf

/-- Settles O2: each branch of the three decoders answers the instruction whose encoding is the byte it tested. -/
theorem encodeOfDecodeIsTheByte : Obligations.EncodeOfDecodeIsTheByte := fun _ _ _ => decode_eq_instr_iff.1

/-! ### Bytes that are no instruction (R51, R58) -/

/-- Settles O3: under each mask a pattern is an interval of bytes, and R58's ranges are the gaps between them. -/
theorem reservedCodesAreInvalid : Obligations.ReservedCodesAreInvalid := by
  intro b
  have hF0 : (b &&& 0xF0).toNat = b.toNat / 16 * 16 := toNat_and_highMask 4 4 b
  have hFC : (b &&& 0xFC).toNat = b.toNat / 4 * 4 := toNat_and_highMask 6 2 b
  have hFE : (b &&& 0xFE).toNat = b.toNat / 2 * 2 := toNat_and_highMask 7 1 b
  have hlt := b.isLt
  simp only [decode, decodeSeq, ite_eq_iff, ← BitVec.toNat_inj, hF0, hFC, hFE, reduceCtorEq, and_false, false_or,
    and_true, BitVec.reduceToNat]
  omega

/-- The bytes R51 lists first: opcode 0x9 to 0xD, or OUT or HLT with an operand that is not 0. -/
def NoPayloadWord (w : Byte) : Prop :=
  (0x90 ≤ w.toNat ∧ w.toNat ≤ 0xDF) ∨ (0xE1 ≤ w.toNat ∧ w.toNat ≤ 0xEF) ∨ 0xF1 ≤ w.toNat

/-- The bytes that are no instruction word: R51's first ranges, and the literals other than 0x00. -/
theorem decodeWord_eq_none_iff (b : Byte) :
    (decodeWord b).toOption = none ↔ NoPayloadWord b ∨ (1 ≤ b.toNat ∧ b.toNat ≤ 0x0F) := by
  have hlt := b.isLt
  simp only [decodeWord, bareWord, apply_ite Decoded.toOption, Decoded.toOption_instr, Decoded.toOption_invalid,
    ite_eq_iff, ← BitVec.toNat_inj, opcodeOf_toNat, operandOf_toNat, reduceCtorEq, and_false, false_or, and_true,
    BitVec.reduceToNat, NoPayloadWord]
  omega

theorem decodeData_eq_none_iff (b : Byte) : (decodeData b).toOption = none ↔ 0x0F < b.toNat := by
  unfold decodeData Config.literalMax
  split <;> simp <;> omega

theorem noPayloadWord_iff (b : Byte) :
    (decode .sap1Word b).toOption = none ∧ (decode .sap1Data b).toOption = none ↔ NoPayloadWord b := by
  simp only [decode, decodeWord_eq_none_iff, decodeData_eq_none_iff, NoPayloadWord]
  omega

/-- A byte that a payload format decodes: in none of R51's first ranges, and from 0x01 to 0x0F a literal only. -/
theorem word_of_decode_payload {f : Format} {b : Byte} {i : Instr} (hf : f ≠ .seqOp) (hd : decode f b = .instr i) :
    ¬NoPayloadWord b ∧ (1 ≤ b.toNat → b.toNat ≤ 0x0F → i = .literal b) := by
  rw [← noPayloadWord_iff]
  cases f with
  | seqOp => exact absurd rfl hf
  | sap1Word =>
    have hsome : (decodeWord b).toOption ≠ none := by simp [show decodeWord b = .instr i from hd]
    exact ⟨fun hnone => hsome hnone.1, fun h1 h15 => absurd ((decodeWord_eq_none_iff b).2 (.inr ⟨h1, h15⟩)) hsome⟩
  | sap1Data =>
    refine ⟨fun hnone => by simp [hd] at hnone, fun _ _ => ?_⟩
    rcases ite_eq_cases hd with ⟨-, ⟨⟩⟩ | hd
    · rfl
    · cases hd

end Sys2Proof
end

section
/-! SUPPORT. The words the assembler produces (30_encoding.md R51, 40_image_assembly.md R62 to R77): a line that parses
is a well-formed payload instruction, and its entry's word is that instruction's encoding. -/

namespace Sys2Proof.Machine

/-- What a line that parses can be: a bare mnemonic, a mnemonic with its operand, or a literal of one digit. -/
theorem parseLine_cases {policy : ExtraTokenPolicy} {n : Nat} {line : List Char} {i : Instr}
    (hp : parseLine policy n line = .instr i) :
    (∃ m, bareMnemonic m = some i) ∨ (∃ m f x, operandMnemonic m = some f ∧ i = f x)
      ∨ ∃ x : Nibble, i = .literal (x.setWidth 8) := by
  unfold parseLine at hp
  split at hp
  · cases hp
  next m rest ht =>
    split at hp
    next j hb =>
      obtain rfl := Parsed.instr.inj hp
      exact .inl ⟨m, hb⟩
    next hb =>
      split at hp
      next f hf =>
        unfold parseOperand at hp
        split at hp
        · cases hp
        · split at hp
          · cases hp
          · exact .inr (.inl ⟨m, f, _, hf, (extraTokenCheck_instr hp).symm⟩)
      next hf =>
        unfold parseLiteral at hp
        split at hp
        · cases hp
        · exact .inr (.inr ⟨_, (extraTokenCheck_instr hp).symm⟩)

theorem bareMnemonic_wf {m : List Char} {i : Instr} (hm : bareMnemonic m = some i) : i.wf = true := by
  unfold bareMnemonic at hm
  split_ifs at hm <;> cases hm <;> rfl

theorem operandMnemonic_wf {m : List Char} {f : Nibble → Instr} (x : Nibble) (hm : operandMnemonic m = some f) :
    (f x).wf = true := by
  unfold operandMnemonic at hm
  split_ifs at hm <;> cases hm <;> rfl

/-- A literal of one hexadecimal digit is at most `LITERAL_MAX` (R77). -/
theorem literal_digit_wf (x : Nibble) : (Instr.literal (x.setWidth 8)).wf = true := by
  have hx := x.isLt
  refine decide_eq_true ?_
  rw [BitVec.toNat_setWidth_of_le (by decide)]
  exact Nat.le_of_lt_succ hx

theorem parseLine_wf {policy : ExtraTokenPolicy} {n : Nat} {line : List Char} {i : Instr}
    (hp : parseLine policy n line = .instr i) : i.wf = true := by
  rcases parseLine_cases hp with ⟨m, hm⟩ | ⟨m, f, x, hm, rfl⟩ | ⟨x, rfl⟩
  · exact bareMnemonic_wf hm
  · exact operandMnemonic_wf x hm
  · exact literal_digit_wf x

theorem instrEntry_word (h : HexCase) (m : String) (o x : Nibble) : (instrEntry h m o x).word = o ++ x := by
  have ho := o.isLt
  have hx := x.isLt
  apply BitVec.eq_of_toNat_eq
  rw [BitVec.toNat_append, ← Nat.shiftLeft_add_eq_or_of_lt hx, Nat.shiftLeft_eq, instrEntry, BitVec.toNat_ofNat]
  omega

/-- An image entry is a payload instruction's, and its word is that instruction's encoding. -/
theorem entryOf_format_word {h : HexCase} {i : Instr} {e : Entry} (he : entryOf h i = some e) :
    i.format ≠ .seqOp ∧ e.word = encode i := by
  cases i with
  | nop | out | hlt | literal v =>
    cases he
    exact ⟨nofun, rfl⟩
  | lda x | add x | sub x | sta x | ldi x | jmp x | jc x | jz x =>
    cases he
    exact ⟨nofun, instrEntry_word ..⟩
  | setpin | wait | addrsel | shbegin | shbit | latch | wrpulse | gap | loadword | load | readStatus | shiftout
  | reset => cases he

/-- Settles O4: a line's word is the encoding of a well-formed payload instruction, so a payload format decodes it. -/
theorem wordsTheAssemblerNeverProduces : Obligations.WordsTheAssemblerNeverProduces := by
  refine ⟨noPayloadWord_iff, fun policy n line i h hp => ?_⟩
  obtain ⟨e, he⟩ := parseLine_entry policy n line i h hp
  obtain ⟨hf, hw⟩ := entryOf_format_word he
  have hd : decode i.format e.word = .instr i := hw ▸ decode_encode i (parseLine_wf hp)
  exact ⟨e, he, word_of_decode_payload hf hd⟩

end Sys2Proof.Machine
end

section
/-! SUPPORT. A step whose turn issues a code (30_encoding.md R58, 60_exceptions.md R123). -/

namespace Sys2Proof.Machine

theorem State.issue_instr {s : State} {f : Format} {b : Byte} {i : Instr} (hd : decode f b = .instr i) :
    s.issue f b = if s.phase = .run ∧ usesPinPath i = true then .refuse .secondDriver else .run i := by
  simp [State.issue, hd]

theorem State.issue_invalid {s : State} {f : Format} {b : Byte} {e : DecodeError} (hd : decode f b = .invalid e) :
    s.issue f b = .refuse (.undecodable e) := by
  simp [State.issue, hd]

theorem step_code_of_run {s : State} {f : Format} {b : Byte} {rest : List Turn} {i : Instr}
    (ht : s.turns = .code f b :: rest) (hi : s.issue f b = .run i) : step s = exec i { s with turns := rest } := by
  have hi' : ({ s with turns := rest } : State).issue f b = .run i := hi
  simp [step, ht, takeTurn, hi']

theorem step_code_of_refuse {s : State} {f : Format} {b : Byte} {rest : List Turn} {r : Refusal}
    (ht : s.turns = .code f b :: rest) (hi : s.issue f b = .refuse r) : step s = .refused r := by
  have hi' : ({ s with turns := rest } : State).issue f b = .refuse r := hi
  simp [step, ht, takeTurn, hi']

/-- Settles O6: issuing a code does not look at the turns, and its three outcomes are the three clauses. -/
theorem stepRunsTheDecodedCode : Obligations.StepRunsTheDecodedCode := by
  intro s f b rest ht
  refine ⟨fun i hd hfree => step_code_of_run ht ?_, fun i hd hbusy => step_code_of_refuse ht ?_,
    fun e hd => step_code_of_refuse ht (State.issue_invalid hd)⟩
  · rw [State.issue_instr hd, if_neg hfree]
  · rw [State.issue_instr hd, if_pos hbusy]

end Sys2Proof.Machine
end

section
/-! SUPPORT. The entries of the payload instructions (30_encoding.md R49, R53, 40_image_assembly.md R66 to R79, R85):
the display text with its digit, and the word as opcode and operand. -/

namespace Sys2Proof.Machine

/-! ### The entry of an instruction line -/

theorem nibble_setWidth (x : Nibble) : x.setWidth 8 = 0#4 ++ x := BitVec.setWidth_eq_append (by decide)

/-- The word written as R67 to R74 write it, the row's base with the operand or-ed in (R49). -/
theorem append_eq_base_or (o x : Nibble) : o ++ x = (o ++ 0#4) ||| x.setWidth 8 := by
  rw [nibble_setWidth, BitVec.or_append, BitVec.or_zero, BitVec.zero_or]

theorem instrEntry_eq (h : HexCase) (name : String) (o x : Nibble) :
    instrEntry h name o x = ⟨name ++ " 0x" ++ hexDigitText h x, (o ++ 0#4) ||| x.setWidth 8⟩ := by
  rw [← append_eq_base_or, ← instrEntry_word h name]
  rfl

@[simp] theorem hexDigitText_zero (h : HexCase) : hexDigitText h 0#4 = "0" := by
  cases h <;> rfl

theorem instrEntry_zero (h : HexCase) (name : String) (o : Nibble) :
    instrEntry h name o 0 = ⟨name ++ " 0x" ++ "0", o ++ 0#4⟩ := by
  simp [instrEntry_eq]

/-! ### What an instruction adds (R66 to R77) -/

theorem exec_operand_entry {i : Instr} {s : State} {x : Nibble} (name : String) (o : Nibble)
    (h : entryOf s.params.hexCase i = some (instrEntry s.params.hexCase name o x)) :
    exec i s = .next (s.emit ⟨name ++ " 0x" ++ hexDigitText s.params.hexCase x, (o ++ 0#4) ||| x.setWidth 8⟩) :=
  exec_payload i s _ (h.trans (congrArg some (instrEntry_eq ..)))

theorem exec_bare_entry {i : Instr} {s : State} (name : String) (o : Nibble)
    (h : entryOf s.params.hexCase i = some (instrEntry s.params.hexCase name o 0)) :
    exec i s = .next (s.emit ⟨name ++ " 0x" ++ "0", o ++ 0#4⟩) :=
  exec_payload i s _ (h.trans (congrArg some (instrEntry_zero ..)))

/-- Settles O7: each of the eight adds the entry of its row's opcode, whose word is the row's base with the operand. -/
theorem operandMnemonicsYieldTheirEntries : Obligations.OperandMnemonicsYieldTheirEntries := fun _ _ =>
  ⟨exec_operand_entry "LDA" 0x1 rfl, exec_operand_entry "ADD" 0x2 rfl, exec_operand_entry "SUB" 0x3 rfl,
    exec_operand_entry "STA" 0x4 rfl, exec_operand_entry "LDI" 0x5 rfl, exec_operand_entry "JMP" 0x6 rfl,
    exec_operand_entry "JC" 0x7 rfl, exec_operand_entry "JZ" 0x8 rfl⟩

/-- Settles O8: the bare mnemonics' operand is 0, whose digit is the same in either case. -/
theorem bareMnemonicsAndLiteralsYieldTheirEntries : Obligations.BareMnemonicsAndLiteralsYieldTheirEntries :=
  fun s v _ =>
    ⟨exec_bare_entry "NOP" 0x0 rfl, exec_bare_entry "OUT" 0xE rfl, exec_bare_entry "HLT" 0xF rfl,
      Config.literalText v.toNat, exec_payload (.literal v) s (literalEntry v) rfl⟩

/-! ### Opcode and operand of a word (R53, R85) -/

theorem shiftRight_four (b : Byte) : b >>> 4 = (opcodeOf b).setWidth 8 := by
  apply BitVec.eq_of_toNat_eq
  rw [BitVec.toNat_ushiftRight, Nat.shiftRight_eq_div_pow, BitVec.toNat_setWidth_of_le (by decide), opcodeOf_toNat]

theorem and_lowNibble (b : Byte) : b &&& 0x0F = (operandOf b).setWidth 8 := by
  apply BitVec.eq_of_toNat_eq
  rw [BitVec.toNat_setWidth_of_le (by decide), operandOf_toNat]
  exact Nat.and_two_pow_sub_one_eq_mod b.toNat 4

/-- The two halves of R85 for a word of opcode `o` and operand `x`. -/
theorem instrEntry_gives_back {i : Instr} {h : HexCase} {name : String} (o x : Nibble)
    (hi : entryOf h i = some (instrEntry h name o x)) (e : Entry) (he : entryOf h i = some e) :
    e.word >>> 4 = o.setWidth 8 ∧ e.word &&& 0x0F = x.setWidth 8 := by
  obtain rfl := Option.some.inj (hi.symm.trans he)
  rw [shiftRight_four, and_lowNibble, instrEntry_word, opcodeOf_append, operandOf_append]
  exact ⟨rfl, rfl⟩

theorem literalEntry_gives_back {v : Byte} (hv : v.toNat ≤ 15) : v >>> 4 = 0 ∧ v &&& 0x0F = v := by
  constructor
  · have : opcodeOf v = 0 := by
      apply BitVec.eq_of_toNat_eq
      rw [opcodeOf_toNat]
      exact Nat.div_eq_of_lt (Nat.lt_succ_of_le hv)
    rw [shiftRight_four, this]
    rfl
  · apply BitVec.eq_of_toNat_eq
    rw [and_lowNibble, BitVec.toNat_setWidth_of_le (by decide), operandOf_toNat]
    exact Nat.mod_eq_of_lt (Nat.lt_succ_of_le hv)

/-- Settles O9: an instruction line's word is its opcode's nibble before its operand's. -/
theorem wordGivesBackOpcodeAndOperand : Obligations.WordGivesBackOpcodeAndOperand := by
  intro h x v
  refine ⟨instrEntry_gives_back 0x0 0 rfl, instrEntry_gives_back 0x1 x rfl, instrEntry_gives_back 0x2 x rfl,
    instrEntry_gives_back 0x3 x rfl, instrEntry_gives_back 0x4 x rfl, instrEntry_gives_back 0x5 x rfl,
    instrEntry_gives_back 0x6 x rfl, instrEntry_gives_back 0x7 x rfl, instrEntry_gives_back 0x8 x rfl,
    instrEntry_gives_back 0xE 0 rfl, instrEntry_gives_back 0xF 0 rfl, ?_⟩
  rintro hv e ⟨⟩
  exact literalEntry_gives_back hv

end Sys2Proof.Machine
end

section
/-! SUPPORT. The tokens of a line and what the line is by its tokens (40_image_assembly.md R61 to R65, R77). -/

namespace Sys2Proof.Machine

/-! ### Digits (R63) -/

theorem hexDigit_eq_some_iff (c : Char) (x : Nibble) :
    hexDigit c = some x ↔
      (∃ k, k ≤ 9 ∧ c.toNat = '0'.toNat + k ∧ x.toNat = k)
        ∨ (∃ k, k ≤ 5 ∧ c.toNat = 'A'.toNat + k ∧ x.toNat = 10 + k)
        ∨ (∃ k, k ≤ 5 ∧ c.toNat = 'a'.toNat + k ∧ x.toNat = 10 + k) := by
  have hx := x.isLt
  simp only [hexDigit, ite_eq_iff, Option.some.injEq, reduceCtorEq, and_false, or_false, ← BitVec.toNat_inj,
    BitVec.toNat_ofNat, Char.reduceToNat]
  constructor
  · rintro (⟨_, hv⟩ | ⟨_, ⟨_, hv⟩ | ⟨_, _, hv⟩⟩)
    · exact .inl ⟨c.toNat - 48, by omega⟩
    · exact .inr (.inl ⟨c.toNat - 65, by omega⟩)
    · exact .inr (.inr ⟨c.toNat - 97, by omega⟩)
  · rintro (⟨k, _⟩ | ⟨k, _⟩ | ⟨k, _⟩) <;> omega

theorem hexToken_eq_some_iff (t : List Char) (x : Nibble) :
    hexToken t = some x ↔ ∃ c, t = [c] ∧ hexDigit c = some x := by
  match t with
  | [] | _ :: _ :: _ => simp [hexToken]
  | [c] => simp [hexToken]

/-- Settles O10: a token of one character is that character's digit, and no other token is accepted. -/
theorem operandTokenIsOneHexDigit : Obligations.OperandTokenIsOneHexDigit := by
  intro t x
  simp only [hexToken_eq_some_iff, hexDigit_eq_some_iff]

/-! ### Splitting on whitespace (R61) -/

@[simp] theorem flush_nil : flush [] = [] := rfl

theorem flush_of_ne_nil {cur : List Char} (h : cur ≠ []) : flush cur = [cur] := by
  simp [flush, h]

@[simp] theorem flush_flatten (cur : List Char) : (flush cur).flatten = cur := by
  cases cur <;> simp [flush]

theorem tokensFrom_space (cur : List Char) {c : Char} (rest : List Char) (hc : isSpace c = true) :
    tokensFrom cur (c :: rest) = flush cur ++ tokens rest := if_pos hc

theorem tokensFrom_char (cur : List Char) {c : Char} (rest : List Char) (hc : isSpace c = false) :
    tokensFrom cur (c :: rest) = tokensFrom (cur ++ [c]) rest := if_neg (by simp [hc])

@[simp] theorem tokens_nil : tokens [] = [] := rfl

theorem tokens_space {c : Char} (rest : List Char) (hc : isSpace c = true) : tokens (c :: rest) = tokens rest :=
  tokensFrom_space [] rest hc

theorem tokens_of_blank {line : List Char} (h : ∀ c ∈ line, isSpace c = true) : tokens line = [] := by
  induction line with
  | nil => rfl
  | cons c rest ih =>
    obtain ⟨hc, hrest⟩ := List.forall_mem_cons.1 h
    rw [tokens_space rest hc, ih hrest]

/-- Characters that are no whitespace lengthen the token that is being read. -/
theorem tokensFrom_word (cur word rest : List Char) (hword : ∀ c ∈ word, isSpace c = false) :
    tokensFrom cur (word ++ rest) = tokensFrom (cur ++ word) rest := by
  induction word generalizing cur with
  | nil => simp
  | cons c word ih =>
    obtain ⟨hc, hrest⟩ := List.forall_mem_cons.1 hword
    rw [List.cons_append, tokensFrom_char _ _ hc, ih _ hrest, List.append_assoc, List.singleton_append]

/-- The token that is being read ends at whitespace and at the end of the line. -/
theorem tokensFrom_boundary (cur rest : List Char) (hrest : ∀ c ∈ rest.head?, isSpace c = true) :
    tokensFrom cur rest = flush cur ++ tokens rest := by
  cases rest with
  | nil => simp [tokensFrom]
  | cons c rest =>
    have hc : isSpace c = true := hrest c rfl
    rw [tokensFrom_space cur rest hc, tokens_space rest hc]

theorem tokens_word {word rest : List Char} (hne : word ≠ []) (hword : ∀ c ∈ word, isSpace c = false)
    (hrest : ∀ c ∈ rest.head?, isSpace c = true) : tokens (word ++ rest) = word :: tokens rest := by
  rw [tokens, tokensFrom_word [] word rest hword, List.nil_append, tokensFrom_boundary word rest hrest,
    flush_of_ne_nil hne, List.singleton_append]

theorem tokensFrom_flatten (cur line : List Char) :
    (tokensFrom cur line).flatten = cur ++ line.filter (fun c => !isSpace c) := by
  induction line generalizing cur with
  | nil => simp [tokensFrom]
  | cons c rest ih =>
    cases hc : isSpace c with
    | true => simp [tokensFrom_space cur rest hc, tokens, ih, hc]
    | false => simp [tokensFrom_char cur rest hc, ih, hc]

/-- What every token is: not empty, and without whitespace. -/
def IsWord (t : List Char) : Prop := t ≠ [] ∧ ∀ c ∈ t, isSpace c = false

theorem flush_isWord {cur : List Char} (hcur : ∀ c ∈ cur, isSpace c = false) : ∀ t ∈ flush cur, IsWord t := by
  intro t ht
  cases cur with
  | nil => cases ht
  | cons c cur =>
    obtain rfl := List.mem_singleton.1 ht
    exact ⟨nofun, hcur⟩

theorem tokensFrom_isWord (cur line : List Char) (hcur : ∀ c ∈ cur, isSpace c = false) :
    ∀ t ∈ tokensFrom cur line, IsWord t := by
  induction line generalizing cur with
  | nil => exact flush_isWord hcur
  | cons c rest ih =>
    cases hc : isSpace c with
    | true =>
      rw [tokensFrom_space cur rest hc]
      exact List.forall_mem_append.2 ⟨flush_isWord hcur, ih [] nofun⟩
    | false =>
      rw [tokensFrom_char cur rest hc]
      exact ih _ (List.forall_mem_append.2 ⟨hcur, List.forall_mem_singleton.2 hc⟩)

theorem parseLine_of_no_tokens {policy : ExtraTokenPolicy} {n : Nat} {line : List Char} (h : tokens line = []) :
    parseLine policy n line = .error (.malformedLine n) := by
  simp [parseLine, h]

/-- Settles O11: the splitting read off its accumulator, which holds the characters of the token being read. -/
theorem lineIsSplitOnWhitespace : Obligations.LineIsSplitOnWhitespace :=
  ⟨tokens_nil, fun _ rest hc => tokens_space rest hc, fun _ _ => tokens_word, tokensFrom_flatten [],
    fun line => tokensFrom_isWord [] line nofun, fun _ _ _ hblank => parseLine_of_no_tokens (tokens_of_blank hblank)⟩

/-! ### The mnemonics (R62) -/

theorem bareMnemonic_eq_some_iff (m : List Char) (i : Instr) :
    bareMnemonic m = some i ↔
      (m = "NOP".toList ∧ i = .nop) ∨ (m = "OUT".toList ∧ i = .out) ∨ (m = "HLT".toList ∧ i = .hlt) := by
  constructor
  · intro h
    unfold bareMnemonic at h
    split_ifs at h <;> cases h <;> simp [*]
  · rintro (⟨rfl, rfl⟩ | ⟨rfl, rfl⟩ | ⟨rfl, rfl⟩) <;> rfl

theorem operandMnemonic_eq_some_iff (m : List Char) (f : Nibble → Instr) :
    operandMnemonic m = some f ↔
      (m = "LDA".toList ∧ f = .lda) ∨ (m = "ADD".toList ∧ f = .add) ∨ (m = "SUB".toList ∧ f = .sub)
        ∨ (m = "STA".toList ∧ f = .sta) ∨ (m = "LDI".toList ∧ f = .ldi) ∨ (m = "JMP".toList ∧ f = .jmp)
        ∨ (m = "JC".toList ∧ f = .jc) ∨ (m = "JZ".toList ∧ f = .jz) := by
  constructor
  · intro h
    unfold operandMnemonic at h
    split_ifs at h <;> cases h <;> simp [*]
  · rintro (⟨rfl, rfl⟩ | ⟨rfl, rfl⟩ | ⟨rfl, rfl⟩ | ⟨rfl, rfl⟩ | ⟨rfl, rfl⟩ | ⟨rfl, rfl⟩ | ⟨rfl, rfl⟩ | ⟨rfl, rfl⟩) <;>
      rfl

/-- No mnemonic is of both kinds. -/
theorem bareMnemonic_of_operandMnemonic {m : List Char} {f : Nibble → Instr} (h : operandMnemonic m = some f) :
    bareMnemonic m = none := by
  rcases (operandMnemonic_eq_some_iff m f).1 h with
    ⟨rfl, -⟩ | ⟨rfl, -⟩ | ⟨rfl, -⟩ | ⟨rfl, -⟩ | ⟨rfl, -⟩ | ⟨rfl, -⟩ | ⟨rfl, -⟩ | ⟨rfl, -⟩ <;> rfl

/-! ### A line by its tokens (R64, R65, R77) -/

theorem extraTokenCheck_eq (policy : ExtraTokenPolicy) (extra : List (List Char)) (n : Nat) (i : Instr) :
    extraTokenCheck policy extra n i
      = if extra ≠ [] ∧ policy = .reject then .error (.malformedLine n) else .instr i := by
  cases policy <;> cases extra <;> rfl

section

variable {policy : ExtraTokenPolicy} {n : Nat} {line m : List Char} {rest : List (List Char)}

theorem parseLine_bare {i : Instr} (ht : tokens line = m :: rest) (hm : bareMnemonic m = some i) :
    parseLine policy n line = .instr i := by
  simp [parseLine, ht, hm]

theorem parseLine_operand {f : Nibble → Instr} (ht : tokens line = m :: rest) (hm : operandMnemonic m = some f) :
    parseLine policy n line = parseOperand policy n f rest := by
  simp [parseLine, ht, hm, bareMnemonic_of_operandMnemonic hm]

theorem parseLine_literal (ht : tokens line = m :: rest) (hb : bareMnemonic m = none)
    (ho : operandMnemonic m = none) : parseLine policy n line = parseLiteral policy n m rest := by
  simp [parseLine, ht, hb, ho]

end

section

variable {t : List Char} {x : Nibble} (policy : ExtraTokenPolicy) (n : Nat) (extra : List (List Char))

theorem parseOperand_unknown (f : Nibble → Instr) (h : hexToken t = none) :
    parseOperand policy n f (t :: extra) = .error (.unknownOperand n t) := by
  simp [parseOperand, h]

theorem parseOperand_digit (f : Nibble → Instr) (h : hexToken t = some x) :
    parseOperand policy n f (t :: extra)
      = if extra ≠ [] ∧ policy = .reject then .error (.malformedLine n) else .instr (f x) := by
  simp [parseOperand, h, extraTokenCheck_eq]

theorem parseLiteral_unknown (h : hexToken t = none) :
    parseLiteral policy n t extra = .error (.unknownOperand n t) := by
  simp [parseLiteral, h]

theorem parseLiteral_digit (h : hexToken t = some x) :
    parseLiteral policy n t extra
      = if extra ≠ [] ∧ policy = .reject then .error (.malformedLine n) else .instr (.literal (x.setWidth 8)) := by
  simp [parseLiteral, h, extraTokenCheck_eq]

end

/-- Settles O12: the first token chooses the form of the line, and the form reads the tokens after it. -/
theorem lineIsReadByItsTokens : Obligations.LineIsReadByItsTokens := by
  refine ⟨bareMnemonic_eq_some_iff, operandMnemonic_eq_some_iff, fun _ _ => ⟨rfl, rfl⟩, ?_⟩
  intro policy n line m rest ht
  refine ⟨fun i hm => parseLine_bare ht hm, fun f hm => ?_, fun hb ho => ?_⟩
  · rw [parseLine_operand ht hm]
    constructor
    · rintro rfl
      rfl
    · rintro t extra rfl
      exact ⟨parseOperand_unknown policy n extra f, fun x => parseOperand_digit policy n extra f⟩
  · rw [parseLine_literal ht hb ho]
    exact ⟨parseLiteral_unknown policy n rest, fun x => parseLiteral_digit policy n rest⟩

end Sys2Proof.Machine
end

section
/-! SUPPORT. The pure assembler over a listing (40_image_assembly.md R60, R80 to R83): the valid lines at its start give
their entries in order, the first bad line ends it, and the end of the listing pads or overflows. -/

namespace Sys2Proof.Machine

/-- Every line parses, the first of them being line `k + 1` of the listing. -/
def LinesParse (p : Params) (k : Nat) (lines : List (List Char)) : Prop :=
  ∀ n line, lines[n]? = some line → ∃ i, parseLine p.extraTokens (k + n + 1) line = .instr i

/-- The entries of lines that parse, one each in order, the first of them being line `k + 1` of the listing. -/
def EntriesOf (p : Params) (k : Nat) (lines : List (List Char)) (es : List Entry) : Prop :=
  es.length = lines.length
    ∧ ∀ n line i, lines[n]? = some line → parseLine p.extraTokens (k + n + 1) line = .instr i →
      es[n]? = entryOf p.hexCase i

theorem linesParse_zero_iff {p : Params} {lines : List (List Char)} :
    LinesParse p 0 lines ↔
      ∀ n line, lines[n]? = some line → ∃ i, parseLine p.extraTokens (n + 1) line = .instr i := by
  simp only [LinesParse, Nat.zero_add]

theorem LinesParse.head {p : Params} {k : Nat} {line : List Char} {lines : List (List Char)}
    (h : LinesParse p k (line :: lines)) : ∃ i, parseLine p.extraTokens (k + 1) line = .instr i := h 0 line rfl

theorem LinesParse.tail {p : Params} {k : Nat} {line : List Char} {lines : List (List Char)}
    (h : LinesParse p k (line :: lines)) : LinesParse p (k + 1) lines := by
  intro n l hl
  rw [Nat.add_right_comm k]
  exact h (n + 1) l hl

theorem EntriesOf.cons {p : Params} {k : Nat} {line : List Char} {lines : List (List Char)} {es : List Entry}
    {e : Entry} (h : EntriesOf p (k + 1) lines es)
    (he : ∀ i, parseLine p.extraTokens (k + 1) line = .instr i → some e = entryOf p.hexCase i) :
    EntriesOf p k (line :: lines) (e :: es) := by
  obtain ⟨hlen, hes⟩ := h
  refine ⟨congrArg Nat.succ hlen, fun n l i hl hi => ?_⟩
  cases n with
  | zero =>
    obtain rfl := Option.some.inj hl
    exact he i hi
  | succ n =>
    refine hes n l i hl ?_
    rwa [Nat.add_right_comm k]

/-- Lines that parse put their entries at the end of the image, whatever follows them. -/
theorem assembleFrom_of_parse {p : Params} {out : List Entry} {lines : List (List Char)} (rest : List (List Char))
    (h : LinesParse p out.length lines) :
    ∃ es, EntriesOf p out.length lines es ∧ assembleFrom p out (lines ++ rest) = assembleFrom p (out ++ es) rest := by
  induction lines generalizing out with
  | nil => exact ⟨[], ⟨rfl, nofun⟩, by simp⟩
  | cons line lines ih =>
    obtain ⟨i, hi⟩ := h.head
    obtain ⟨e, he⟩ := parseLine_entry p.extraTokens _ line i p.hexCase hi
    obtain ⟨es, hes, hrest⟩ := ih (out := out ++ [e]) (by simpa using h.tail)
    refine ⟨e :: es, EntriesOf.cons (by simpa using hes) ?_, ?_⟩
    · intro i' hi'
      obtain rfl := Parsed.instr.inj (hi.symm.trans hi')
      exact he.symm
    · rw [List.cons_append, assembleFrom_instr p out line _ i e hi he, hrest, List.append_assoc, List.singleton_append]

/-- A listing of which every line parses ends as its entries do (R80, R81). -/
theorem assemble_of_parse {p : Params} {lines : List (List Char)} (h : LinesParse p 0 lines) :
    ∃ es, EntriesOf p 0 lines es ∧ assemble p lines 16 = finishImage es := by
  obtain ⟨es, hes, heq⟩ := assembleFrom_of_parse (out := []) [] h
  rw [List.append_nil] at heq
  exact ⟨es, hes, heq⟩

/-! ### The end of a listing (R80, R81) -/

theorem finishImage_of_le {out : List Entry} (h : out.length ≤ 16) : finishImage out = .image (padded out) :=
  if_neg (Nat.not_lt.2 h)

theorem finishImage_of_lt {out : List Entry} (h : 16 < out.length) :
    finishImage out = .error (.capacityOverflow out.length) := if_pos h

theorem padded_length {out : List Entry} (h : out.length ≤ 16) : (padded out).length = 16 := by
  rw [padded, List.length_append, List.length_replicate]
  exact Nat.add_sub_of_le h

theorem padded_entry {out : List Entry} {n : Nat} (h : n < out.length) : (padded out)[n]? = out[n]? :=
  List.getElem?_append_left h

theorem padded_padding {out : List Entry} {n : Nat} (h : out.length ≤ n) (hn : n < 16) :
    (padded out)[n]? = some paddingEntry := by
  rw [padded, List.getElem?_append_right h]
  exact List.getElem?_replicate_of_lt (Nat.sub_lt_sub_right h hn)

/-- Settles O13: the image is the lines' entries, padded. -/
theorem validListingAssemblesToSixteenEntries : Obligations.ValidListingAssemblesToSixteenEntries := by
  intro p lines hle hvalid
  obtain ⟨es, ⟨hlen, hes⟩, heq⟩ := assemble_of_parse (linesParse_zero_iff.2 hvalid)
  have hle' : es.length ≤ 16 := hlen ▸ hle
  refine ⟨padded es, heq.trans (finishImage_of_le hle'), padded_length hle', ?_, ?_⟩
  · intro n line i hl hi
    have hn : n < es.length := hlen ▸ (List.getElem?_eq_some_iff.1 hl).1
    rw [padded_entry hn]
    exact hes n line i hl (by simpa using hi)
  · intro n hn hn16
    exact padded_padding (hlen ▸ hn) hn16

/-! ### The first bad line, and too many lines (R81, R82) -/

/-- Settles O15: the lines before the bad one put one entry each, so it is read as line `n + 1`. -/
theorem firstBadLineWins : Obligations.FirstBadLineWins := by
  intro p lines n line e hl he hbefore
  obtain ⟨hn, rfl⟩ := List.getElem?_eq_some_iff.1 hl
  have hparse : LinesParse p 0 (lines.take n) := by
    refine linesParse_zero_iff.2 fun k l hk => ?_
    have hkn : k < n := (List.length_take_le n lines).trans_lt' (List.getElem?_eq_some_iff.1 hk).1
    rw [List.getElem?_take_of_lt hkn] at hk
    exact hbefore k l hkn hk
  obtain ⟨es, ⟨hlen, -⟩, heq⟩ := assembleFrom_of_parse (out := []) (lines[n] :: lines.drop (n + 1)) hparse
  have hes : es.length = n := by rw [hlen, List.length_take_of_le hn.le]
  rw [List.nil_append, assembleFrom_error p es _ _ e (hes ▸ he), List.getElem_cons_drop, List.take_append_drop] at heq
  exact heq

/-- An image is made of no more lines than fit. -/
theorem assembleFrom_image_length {p : Params} {out : List Entry} {lines : List (List Char)} {img : List Entry}
    (h : assembleFrom p out lines = .image img) : out.length + lines.length ≤ 16 := by
  induction lines generalizing out with
  | nil =>
    by_contra hlong
    rw [assembleFrom_nil, finishImage_of_lt (by simpa using hlong)] at h
    cases h
  | cons line lines ih =>
    cases hp : parseLine p.extraTokens (out.length + 1) line with
    | error e =>
      rw [assembleFrom_error p out line lines e hp] at h
      cases h
    | instr i =>
      obtain ⟨e, he⟩ := parseLine_entry _ _ _ _ p.hexCase hp
      rw [assembleFrom_instr p out line lines i e hp he] at h
      have hle := ih h
      rw [List.length_append, List.length_singleton] at hle
      rw [List.length_cons]
      omega

/-- Settles O14: an image holds every line's entry, and the errors are those of the end and of the first bad line. -/
theorem longListingOverflows : Obligations.LongListingOverflows := by
  intro p lines hlong
  refine ⟨fun img himg => ?_, fun hvalid => ⟨?_, rfl⟩, firstBadLineWins p lines⟩
  · have hle : 0 + lines.length ≤ 16 := assembleFrom_image_length (out := []) himg
    omega
  · obtain ⟨es, ⟨hlen, -⟩, heq⟩ := assemble_of_parse (linesParse_zero_iff.2 hvalid)
    rw [heq, finishImage_of_lt (hlen ▸ hlong), hlen]

end Sys2Proof.Machine
end

section
/-! SUPPORT. The assembler taken a turn at a time against the pure function (40_image_assembly.md R60, R82,
60_exceptions.md R118). -/

namespace Sys2Proof.Machine

/-! ### One turn -/

theorem step_of_turn {s : State} {turn : Turn} {rest : List Turn} (ht : s.turns = turn :: rest) :
    step s = takeTurn turn { s with turns := rest } := by
  simp [step, ht]

theorem run_of_step {s t : State} (k : Nat) (h : step s = .next t) :
    Host.Core.run core (k + 1) s = Host.Core.run core k t := by
  have hcore : core.step s = .next t := h
  simp [Host.Core.run, hcore]

theorem State.readLine_instr {s : State} {text : List Char} {i : Instr} (herr : s.asm.error = none)
    (hp : parseLine s.params.extraTokens (s.asm.entries.length + 1) text = .instr i) : s.readLine text = .run i := by
  simp [State.readLine, herr, hp]

theorem State.readLine_error {s : State} {text : List Char} {e : AsmError} (herr : s.asm.error = none)
    (hp : parseLine s.params.extraTokens (s.asm.entries.length + 1) text = .error e) :
    s.readLine text = .stays (s.asmFail e) := by
  simp [State.readLine, herr, hp]

theorem State.readLine_failed {s : State} {e : AsmError} (text : List Char) (herr : s.asm.error = some e) :
    s.readLine text = .stays s := by
  simp [State.readLine, herr]

theorem State.endListing_image {s : State} {img : List Entry} (herr : s.asm.error = none)
    (hf : finishImage s.asm.entries = .image img) : s.endListing = s.offerImage img := by
  simp [State.endListing, herr, hf]

theorem State.endListing_error {s : State} {e : AsmError} (herr : s.asm.error = none)
    (hf : finishImage s.asm.entries = .error e) : s.endListing = s.asmFail e := by
  simp [State.endListing, herr, hf]

theorem State.endListing_failed {s : State} {e : AsmError} (herr : s.asm.error = some e) : s.endListing = s := by
  simp [State.endListing, herr]

section

variable {s : State} {text : List Char} {rest : List Turn}

theorem step_beginListing (ht : s.turns = .beginListing 16 :: rest) :
    step s = .next { s with turns := rest, asm := ⟨[], none⟩ } := step_of_turn ht

theorem step_endListing {t : State} (ht : s.turns = .endListing :: rest)
    (hend : ({ s with turns := rest } : State).endListing = t) : step s = .next t :=
  (step_of_turn ht).trans (congrArg Host.Outcome.next hend)

theorem step_line_instr {i : Instr} {e : Entry} (ht : s.turns = .line text :: rest) (herr : s.asm.error = none)
    (hp : parseLine s.params.extraTokens (s.asm.entries.length + 1) text = .instr i)
    (he : entryOf s.params.hexCase i = some e) : step s = .next (({ s with turns := rest } : State).emit e) := by
  have hread : ({ s with turns := rest } : State).readLine text = .run i := State.readLine_instr herr hp
  rw [step_of_turn ht, takeTurn, hread]
  exact exec_payload i _ e he

theorem step_line_stays {t : State} (ht : s.turns = .line text :: rest)
    (hread : ({ s with turns := rest } : State).readLine text = .stays t) : step s = .next t := by
  rw [step_of_turn ht, takeTurn, hread]

end

/-! ### The turns of a listing -/

/-- The turns of a listing's lines and its end. -/
def lineTurns (lines : List (List Char)) (rest : List Turn) : List Turn :=
  lines.map Turn.line ++ .endListing :: rest

/-- `t` is `s` after a listing of that result: the image in the assembler and its words on offer, or the error, and
nothing else changed but the turns left. -/
def EndsAs (s t : State) (rest : List Turn) : Assembled → Prop
  | .image img =>
    t = { s with
      turns := rest
      asm := ⟨img, none⟩
      offer := { s.offer with image := img.map fun e => e.word.toNat } }
  | .error e => ∃ entries, t = { s with turns := rest, asm := ⟨entries, some e⟩ }

/-- After an error the lines are not examined (R82). -/
theorem run_lines_of_failed {s : State} {e : AsmError} {lines : List (List Char)} {rest : List Turn}
    (ht : s.turns = lineTurns lines rest) (herr : s.asm.error = some e) :
    Host.Core.run core (lines.length + 1) s = .next { s with turns := rest } := by
  induction lines generalizing s with
  | nil => exact run_of_step 0 (step_endListing ht (State.endListing_failed herr))
  | cons line lines ih =>
    exact (run_of_step _ (step_line_stays ht (State.readLine_failed line herr))).trans (ih rfl herr)

/-- From a listing under assembly, with the entries of the lines before. -/
theorem run_lines {s : State} {lines : List (List Char)} {rest : List Turn} (ht : s.turns = lineTurns lines rest)
    (herr : s.asm.error = none) :
    ∃ t, Host.Core.run core (lines.length + 1) s = .next t
      ∧ EndsAs s t rest (assembleFrom s.params s.asm.entries lines) := by
  induction lines generalizing s with
  | nil =>
    rw [assembleFrom_nil]
    cases hf : finishImage s.asm.entries with
    | image img =>
      have hend : ({ s with turns := rest } : State).endListing = _ := State.endListing_image herr hf
      exact ⟨_, run_of_step 0 (step_endListing ht hend), by rw [EndsAs, ← herr]; rfl⟩
    | error e =>
      have hend : ({ s with turns := rest } : State).endListing = _ := State.endListing_error herr hf
      exact ⟨_, run_of_step 0 (step_endListing ht hend), _, rfl⟩
  | cons line lines ih =>
    cases hp : parseLine s.params.extraTokens (s.asm.entries.length + 1) line with
    | instr i =>
      obtain ⟨e, he⟩ := parseLine_entry _ _ _ _ s.params.hexCase hp
      obtain ⟨t, hrun, hends⟩ := ih (s := ({ s with turns := lineTurns lines rest } : State).emit e) rfl herr
      rw [assembleFrom_instr _ _ _ _ i e hp he]
      exact ⟨t, (run_of_step _ (step_line_instr ht herr hp he)).trans hrun, hends⟩
    | error e =>
      have hread : ({ s with turns := lineTurns lines rest } : State).readLine line = .stays _ :=
        State.readLine_error herr hp
      rw [assembleFrom_error _ _ _ _ e hp]
      exact ⟨_, (run_of_step _ (step_line_stays ht hread)).trans (run_lines_of_failed rfl rfl), _, rfl⟩

/-- Settles O16: a line's turn does what the pure function does with the line. -/
theorem turnsAssembleAsThePureFunction : Obligations.TurnsAssembleAsThePureFunction := by
  intro s lines rest ht
  obtain ⟨t, hrun, hends⟩ :=
    run_lines (s := { s with turns := lineTurns lines rest, asm := ⟨[], none⟩ }) (lines := lines) rfl rfl
  refine ⟨t, (run_of_step _ (step_beginListing ht)).trans hrun, ?_⟩
  have hresult : EndsAs s t rest (assemble s.params lines 16) := hends
  generalize assemble s.params lines 16 = result at hresult ⊢
  cases result with
  | image img =>
    obtain rfl := hresult
    exact ⟨rfl, rfl, rfl⟩
  | error e =>
    obtain ⟨entries, rfl⟩ := hresult
    exact ⟨rfl, rfl, rfl⟩

end Sys2Proof.Machine
end

section
/-! SUPPORT. The pin primitives by themselves (41_io_primitives.md R86 to R88): an accepted event takes its time and
touches its own line only; a rejected one leaves the line at a level the target has reacted to; a WAIT does to the
target what an event that changes no line does. -/

namespace Sys2Proof.Machine

/-! ### The event of a primitive instruction -/

theorem exec_prim (e : Prim) (s : State) : exec e.instr s = .next (s.attempt e).1 := by
  cases e <;> rfl

theorem exec_prim_of_answersOk {s : State} (h : s.answersOk 1) (e : Prim) : exec e.instr s = .next (s.accept e) := by
  rw [exec_prim, s.attempt_ok e (State.answersOk_head h)]

theorem exec_prim_of_rejectsFirst {s : State} {landed : Bool} (h : s.rejectsFirst 0 landed) (e : Prim) :
    exec e.instr s = .next (s.reject landed e) := by
  rw [exec_prim, s.attempt_fail e landed h.2]

/-! ### Time (00_scope.md R13) -/

theorem State.time_le_pass (s : State) (ms : Nat) : s.time + ms ≤ (s.pass ms).time := by
  rw [State.pass_time]
  omega

theorem State.time_le_accept_set (s : State) (p : Line) (v : Bool) : s.time ≤ (s.accept (.set p v)).time :=
  (s.drive p v).time_le_pass 0

theorem State.time_le_accept_wait (s : State) (d : DelaySel) :
    s.time + s.cfg.delay d ≤ (s.accept (.wait d)).time :=
  s.settle.time_le_pass (s.cfg.delay d)

/-! ### SETPIN -/

/-- Settles O17: the accepted event drives its own line, and an event's frame is the rest. -/
theorem setpinSetsItsLine : Obligations.SetpinSetsItsLine := by
  intro p v s hok
  obtain ⟨hregs, hhost, htrace, -⟩ := s.accept_frame (.set p v)
  refine ⟨_, exec_setpin_of_answersOk hok p v, ?_, fun p' hp' => ?_, hregs, hhost, htrace,
    s.time_le_accept_set p v⟩ <;> rw [State.accept_set_lines]
  · exact Lines.get_set_same _ _ _
  · exact Lines.get_set_other _ _ _ _ hp'

/-- The level at which a rejected SETPIN leaves its line (20_memory.md R40). -/
def State.levelLeft (s : State) (p : Line) (v landed : Bool) : Bool := if landed then v else s.lines.get p

theorem State.levelLeft_cases (s : State) (p : Line) (v landed : Bool) :
    s.levelLeft p v landed = v ∨ s.levelLeft p v landed = s.lines.get p := by
  cases landed
  · exact .inr rfl
  · exact .inl rfl

/-- A rejected SETPIN leaves the lines and the target as a drive to the level left. -/
theorem State.reject_set_target (s : State) (p : Line) (v landed : Bool) :
    (s.reject landed (.set p v)).lines = s.lines.set p (s.levelLeft p v landed)
      ∧ (s.reject landed (.set p v)).sr = s.srAfter p (s.levelLeft p v landed)
      ∧ (s.reject landed (.set p v)).q = s.qAfter p (s.levelLeft p v landed)
      ∧ (s.reject landed (.set p v)).m = s.mAfter p (s.levelLeft p v landed) :=
  s.reject_target landed (.set p v)

/-- Settles O23: the rejected event is a drive to the level left on the line, and then HardwareIOError. -/
theorem rejectedSetpinFaults : Obligations.RejectedSetpinFaults := by
  intro p v landed s hrej
  obtain ⟨hfault, hw, hcfg, himg, hhost, htrace, -⟩ := s.reject_frame landed (.set p v)
  obtain ⟨hlines, hsr, hq, hm⟩ := s.reject_set_target p v landed
  refine ⟨_, s.levelLeft p v landed, exec_prim_of_rejectsFirst hrej (.set p v), s.levelLeft_cases p v landed,
    ?_, fun p' hp' => ?_, hsr, hq, hm, hfault, hw, hcfg, himg, htrace, hhost⟩ <;> rw [hlines]
  · exact Lines.get_set_same _ _ _
  · exact Lines.get_set_other _ _ _ _ hp'

/-! ### WAIT -/

/-- After an event that changes no line the addressed cell holds `Q` if `WE_n = 0`, and no other cell has changed
(20_memory.md R38). -/
theorem State.settle_commits (s : State) : CommitsWhileEnabled s s.settle := by
  simp only [CommitsWhileEnabled, SameCellsBut, State.readCell, State.settle_m, State.settle_q]
  rcases s.mSettled_cases with ⟨hw, hm⟩ | ⟨hw, hm⟩ <;> rw [hm, hw]
  · exact ⟨fun _ _ => rfl, fun _ => rfl, nofun⟩
  · exact ⟨fun b hb => Memory.read_write_other _ _ _ _ hb, nofun, fun _ => Memory.read_write_same _ _ _⟩

theorem State.settle_settlesTarget (s : State) : SettlesTarget s s.settle :=
  ⟨rfl, rfl, s.settle_commits, State.settle_sameTarget⟩

/-- What an event did to the target is read off the target alone. -/
theorem SettlesTarget.congr {s t u : State} (h : SettlesTarget s t) (hsr : u.sr = t.sr) (hq : u.q = t.q)
    (hm : u.m = t.m) : SettlesTarget s u := by
  simp only [SettlesTarget, CommitsWhileEnabled, SameCellsBut, SameTarget, State.readCell, hsr, hq, hm]
  exact h

theorem State.accept_wait_settlesTarget (s : State) (d : DelaySel) : SettlesTarget s (s.accept (.wait d)) :=
  s.settle_settlesTarget.congr rfl rfl rfl

theorem State.reject_wait_settlesTarget (s : State) (landed : Bool) (d : DelaySel) :
    SettlesTarget s (s.reject landed (.wait d)) := by
  obtain ⟨-, hsr, hq, hm⟩ := s.reject_target landed (.wait d)
  exact s.settle_settlesTarget.congr hsr hq hm

/-- Settles O22: the accepted event takes its delay and drives no line, so the target settles. -/
theorem waitLastsAtLeastItsDelay : Obligations.WaitLastsAtLeastItsDelay := by
  intro d s hok
  obtain ⟨hregs, hhost, htrace, -⟩ := s.accept_frame (.wait d)
  exact ⟨_, exec_prim_of_answersOk hok (.wait d), s.time_le_accept_wait d, htrace, rfl, s.accept_wait_settlesTarget d,
    hregs, hhost⟩

/-- Settles O24: the rejected event drives no line either, so the target settles, and then HardwareIOError. -/
theorem rejectedWaitFaults : Obligations.RejectedWaitFaults := by
  intro d landed s hrej
  obtain ⟨hfault, hw, hcfg, himg, hhost, htrace, -⟩ := s.reject_frame landed (.wait d)
  obtain ⟨hlines, -⟩ := s.reject_target landed (.wait d)
  exact ⟨_, exec_prim_of_rejectsFirst hrej (.wait d), hfault, hw, hcfg, himg, hlines,
    s.reject_wait_settlesTarget landed d, hhost, htrace⟩

end Sys2Proof.Machine
end

section
/-! SUPPORT. Lists of accepted events: how long they last at least, what they leave where they drive address lines alone
(00_scope.md R13, 20_memory.md R33, R37, R38), and what a rejection after them makes of the fault's registers
(60_exceptions.md R115). -/

namespace Sys2Proof.Machine

/-! ### Time -/

/-- The least time an accepted event takes: a WAIT's delay (41_io_primitives.md R87). -/
def Prim.leastMs (c : Cfg) : Prim → Nat
  | .set _ _ => 0
  | .wait d => c.delay d

theorem State.time_le_accept (s : State) (e : Prim) : s.time + e.leastMs s.cfg ≤ (s.accept e).time := by
  cases e with
  | set p v => exact s.time_le_accept_set p v
  | wait d => exact s.time_le_accept_wait d

theorem State.time_le_acceptAll (s : State) (es : List Prim) :
    s.time + (es.map (Prim.leastMs s.cfg)).sum ≤ (s.acceptAll es).time := by
  induction es generalizing s with
  | nil => simp
  | cons e rest ih =>
    have hfirst := s.time_le_accept e
    have hrest := ih (s.accept e)
    obtain ⟨⟨-, -, -, -, -, hcfg, -⟩, -⟩ := s.accept_frame e
    rw [hcfg] at hrest
    rw [State.acceptAll_cons, List.map_cons, List.sum_cons]
    omega

/-! ### The target under events on the address lines -/

theorem State.accept_outputsFollow (s : State) (e : Prim) : (s.accept e).outputsFollow :=
  s.perform_outputsFollow e

theorem State.acceptAll_outputsFollow (s : State) {es : List Prim} (h : es ≠ []) : (s.acceptAll es).outputsFollow := by
  obtain ⟨init, last, rfl⟩ := (List.eq_nil_or_concat' es).resolve_left h
  rw [State.acceptAll_append]
  exact (s.acceptAll init).accept_outputsFollow last

/-- The event drives no line but an address line. -/
def Prim.onAddressLines : Prim → Bool
  | .set p _ => isAddressLine p
  | .wait _ => true

theorem Lines.weN_set_address (l : Lines) {p : Line} (hp : isAddressLine p = true) (v : Bool) :
    (l.set p v).weN = l.weN :=
  l.get_set_other p .weN v (by rintro rfl; cases hp)

/-- `SR`, the write enable and what the outputs settle at are unchanged, and with `WE_n = 1` so is every cell. -/
structure KeepsSettledTarget (s t : State) : Prop where
  sr : t.sr = s.sr
  qSettled : t.qSettled = s.qSettled
  weN : t.lines.weN = s.lines.weN
  cells : s.lines.weN = true → ∀ b, t.readCell b = s.readCell b

theorem KeepsSettledTarget.trans {s t u : State} (hst : KeepsSettledTarget s t) (htu : KeepsSettledTarget t u) :
    KeepsSettledTarget s u where
  sr := htu.sr.trans hst.sr
  qSettled := htu.qSettled.trans hst.qSettled
  weN := htu.weN.trans hst.weN
  cells hw b := (htu.cells (hst.weN.trans hw) b).trans (hst.cells hw b)

theorem State.accept_keepsSettledTarget (s : State) {e : Prim} (he : e.onAddressLines = true) :
    KeepsSettledTarget s (s.accept e) := by
  have hsettled := (s.accept e).qSettled_of_outputsFollow (s.accept_outputsFollow e)
  cases e with
  | set p v =>
    have hquiet := ne_clk_and_ne_latch (.inl he)
    have hweN := s.lines.weN_set_address he v
    exact ⟨s.drive_sr_other p v hquiet.1, hsettled.trans (s.qAfter_eq_qSettled p v (.inr hquiet)), hweN,
      fun hw => s.drive_readCell_of_weN p v (hweN.trans hw)⟩
  | wait d =>
    obtain ⟨hsr, hq, ⟨hothers, hcell, -⟩, -⟩ := s.accept_wait_settlesTarget d
    refine ⟨hsr, hsettled.trans hq, rfl, fun hw b => ?_⟩
    by_cases hb : b = s.cell
    · exact hb ▸ hcell hw
    · exact hothers b hb

theorem State.acceptAll_keepsSettledTarget (s : State) {es : List Prim} (h : ∀ e ∈ es, e.onAddressLines = true) :
    KeepsSettledTarget s (s.acceptAll es) := by
  induction es generalizing s with
  | nil => exact ⟨rfl, rfl, rfl, fun _ _ => rfl⟩
  | cons e rest ih =>
    obtain ⟨he, hrest⟩ := List.forall_mem_cons.1 h
    exact (s.accept_keepsSettledTarget he).trans (ih (s.accept e) hrest)

/-! ### A rejection after accepted events -/

theorem FaultsHere.of_sameRegisters {s u t : State} (h : FaultsHere u t) (hregs : SameRegisters s u) :
    FaultsHere s t := by
  obtain ⟨hphase, haCnt, hj, -, hcode, -⟩ := hregs
  simpa only [FaultsHere, hphase, haCnt, hj, hcode] using h

/-- Accepted events leave the position alone, so the fault is raised at the position they began at. -/
theorem State.acceptAll_reject_frame (s : State) (es : List Prim) (landed : Bool) (e : Prim) :
    FaultsHere s ((s.acceptAll es).reject landed e)
      ∧ ((s.acceptAll es).reject landed e).trace = s.trace ++ accepted s.cfg es ++ [⟨e.event s.cfg, false⟩] := by
  obtain ⟨hregs, -, htrace, -⟩ := s.acceptAll_frame es
  obtain ⟨hfault, -, -, -, -, hrecord, -⟩ := (s.acceptAll es).reject_frame landed e
  refine ⟨hfault.of_sameRegisters hregs, ?_⟩
  obtain ⟨-, -, -, -, -, hcfg, -⟩ := hregs
  rw [hrecord, htrace, hcfg]

end Sys2Proof.Machine
end

section
/-! SUPPORT. ADDRSEL (42_address_driver.md R89, R90): its event `k` drives line `A<k>` to bit `k` of the address, so the
lines of its first `k` events have the new address's bits and the others the old one's. -/

namespace Sys2Proof.Machine

/-! ### The address lines by number (R33, R55) -/

/-- The line `A<k>`, for `k < 4`. -/
def addressLine : Nat → Line
  | 0 => .a0
  | 1 => .a1
  | 2 => .a2
  | _ => .a3

theorem isAddressLine_addressLine (k : Nat) : isAddressLine (addressLine k) = true := by
  unfold addressLine
  split <;> rfl

theorem addressLine_injective : ∀ i < 4, ∀ k < 4, addressLine i = addressLine k → i = k := by decide

theorem Lines.get_addressLine (l : Lines) : ∀ k < 4, l.get (addressLine k) = l.address.getLsbD k := by
  obtain ⟨h0, h1, h2, h3⟩ := l.address_bits
  intro k hk
  match k, hk with
  | 0, _ => exact h0.symm
  | 1, _ => exact h1.symm
  | 2, _ => exact h2.symm
  | 3, _ => exact h3.symm

/-- A drive of line `A<k>` changes bit `k` of the address and no other bit. -/
theorem Lines.address_set_addressLine (l : Lines) {k : Nat} (hk : k < 4) (v : Bool) (i : Nat) :
    (l.set (addressLine k) v).address.getLsbD i = if i = k then v else l.address.getLsbD i := by
  by_cases hi : i < 4
  · rw [← Lines.get_addressLine _ i hi, ← Lines.get_addressLine _ i hi]
    split
    · next hik => rw [hik, Lines.get_set_same]
    · next hik => exact Lines.get_set_other _ _ _ _ fun h => hik (addressLine_injective i hi k hk h)
  · rw [BitVec.getLsbD_of_ge _ _ (by omega), BitVec.getLsbD_of_ge _ _ (by omega), if_neg (by omega)]

/-! ### The events (R89) -/

theorem addrselPrims_getElem? (a : Nibble) (c : Cfg) :
    ∀ k < 4, (addrselPrims a c)[k]? = some (.set (addressLine k) (a.getLsbD k)) := by
  intro k hk
  match k, hk with
  | 0, _ | 1, _ | 2, _ | 3, _ => rfl

theorem addrselPrims_onAddressLines (a : Nibble) (c : Cfg) : ∀ e ∈ addrselPrims a c, e.onAddressLines = true := by
  unfold addrselPrims
  split <;> simp [Prim.onAddressLines, isAddressLine]

theorem accepted_addrselPrims (a : Nibble) (c : Cfg) :
    accepted c (addrselPrims a c)
      = [⟨.set .a0 a[0], true⟩, ⟨.set .a1 a[1], true⟩, ⟨.set .a2 a[2], true⟩, ⟨.set .a3 a[3], true⟩]
        ++ (if c.tAddr = 0 then [] else [⟨.wait c.tAddr.toNat, true⟩]) := by
  unfold addrselPrims
  split <;> rfl

theorem addrselPrims_leastMs (a : Nibble) (c : Cfg) :
    ((addrselPrims a c).map (Prim.leastMs c)).sum = c.tAddr.toNat := by
  unfold addrselPrims
  split
  · next h => simp [Prim.leastMs, h]
  · simp [Prim.leastMs, Cfg.delay]

theorem exec_addrsel (a : Nibble) (s : State) :
    exec (.addrsel a) s = .next (s.runPrims 0 (addrselPrims a s.cfg)).1 := rfl

/-! ### All events accepted -/

theorem exec_addrsel_of_answersOk {a : Nibble} {s : State} (h : s.answersOk (4 + s.cfg.offset)) :
    exec (.addrsel a) s = .next (s.acceptAll (addrselPrims a s.cfg)) := by
  rw [← addrselPrims_length a] at h
  rw [exec_addrsel, s.runPrims_ok 0 _ h]

theorem State.acceptAll_addrselPrims_lines (a : Nibble) (c : Cfg) (s : State) :
    (s.acceptAll (addrselPrims a c)).lines = { s.lines with a0 := a[0], a1 := a[1], a2 := a[2], a3 := a[3] } := by
  unfold addrselPrims
  split <;> rfl

/-- Settles O25: the events drive each address line to its bit, and the target sees address lines alone. -/
theorem addrselPresentsTheAddress : Obligations.AddrselPresentsTheAddress := by
  intro a s hok
  have hne : addrselPrims a s.cfg ≠ [] := nofun
  have hlines := s.acceptAll_addrselPrims_lines a s.cfg
  have htarget := s.acceptAll_keepsSettledTarget (addrselPrims_onAddressLines a s.cfg)
  have hfollow := s.acceptAll_outputsFollow hne
  have hq := (State.qSettled_of_outputsFollow _ hfollow).symm.trans htarget.qSettled
  have htime := s.time_le_acceptAll (addrselPrims a s.cfg)
  obtain ⟨hregs, hhost, htrace, -⟩ := s.acceptAll_frame (addrselPrims a s.cfg)
  refine ⟨_, exec_addrsel_of_answersOk hok, hlines, ?_, htarget.sr, hq,
    fun hout => hq.trans (s.qSettled_of_outputsFollow hout), htarget.cells, ?_, ?_, hregs, hhost⟩
  · rw [State.cell, hlines, Lines.address_of_bits]
  · rw [htrace, accepted_addrselPrims, List.append_assoc]
  · rwa [addrselPrims_leastMs] at htime

/-! ### A line rejected (R90) -/

theorem exec_addrsel_of_rejectsFirst {a : Nibble} {k : Nat} {landed : Bool} {s : State} (hk : k < 4)
    (h : s.rejectsFirst k landed) :
    exec (.addrsel a) s = .next ((s.acceptAll ((addrselPrims a s.cfg).take k)).reject landed
      (.set (addressLine k) (a.getLsbD k))) := by
  rw [exec_addrsel, s.runPrims_reject 0 k landed _ _ h (addrselPrims_getElem? a s.cfg k hk)]

/-- After `k` events of ADDRSEL the address is mixed: below bit `k` it is the new one, and from there on the old one. -/
theorem State.acceptAll_addrselPrims_address (a : Nibble) (c : Cfg) (s : State) (i : Nat) : ∀ k ≤ 4,
    (s.acceptAll ((addrselPrims a c).take k)).lines.address.getLsbD i
      = if i < k then a.getLsbD i else s.lines.address.getLsbD i := by
  intro k hk
  induction k with
  | zero => rfl
  | succ k ih =>
    rw [List.take_add_one, addrselPrims_getElem? a c k hk, State.acceptAll_append, Option.toList_some,
      State.acceptAll_cons, State.acceptAll_nil, State.accept_set_lines, Lines.address_set_addressLine _ hk,
      ih (Nat.le_of_lt hk)]
    by_cases hik : i = k
    · rw [if_pos hik, if_pos (by omega), hik]
    · simp only [hik, if_false, Nat.lt_add_one_iff_lt_or_eq, or_false]

/-- A rejected drive of line `A<k>` leaves bit `k` of the address at the level left, and the other bits alone. -/
theorem State.reject_addressLine_address (s : State) {k : Nat} (hk : k < 4) (v landed : Bool) (i : Nat) :
    (s.reject landed (.set (addressLine k) v)).lines.address.getLsbD i
      = if i = k then (if landed then v else s.lines.address.getLsbD k) else s.lines.address.getLsbD i := by
  obtain ⟨hlines, -⟩ := s.reject_set_target (addressLine k) v landed
  rw [hlines, Lines.address_set_addressLine _ hk, State.levelLeft, Lines.get_addressLine _ k hk]

/-- With `WE_n = 1` a rejected drive of an address line changes no cell, whatever level it leaves (20_memory.md R38). -/
theorem State.reject_address_readCell (s : State) {p : Line} (hp : isAddressLine p = true) (v landed : Bool)
    (hw : s.lines.weN = true) (b : Nat) : (s.reject landed (.set p v)).readCell b = s.readCell b := by
  obtain ⟨-, -, -, hm⟩ := s.reject_set_target p v landed
  rw [State.readCell, hm]
  exact s.drive_readCell_of_weN p _ ((s.lines.weN_set_address hp _).trans hw) b

/-- Settles O26: the accepted events give the mixed address, and the rejected one is a drive of line `A<k>` to the level
left. -/
theorem addrselStopsAtTheRejectedLine : Obligations.AddrselStopsAtTheRejectedLine := by
  intro a k landed s hk hrej
  have hmixed (i : Nat) := s.acceptAll_addrselPrims_address a s.cfg i k hk.le
  have htarget := s.acceptAll_keepsSettledTarget (es := (addrselPrims a s.cfg).take k) fun e he =>
    addrselPrims_onAddressLines a s.cfg e (List.mem_of_mem_take he)
  obtain ⟨hfault, htrace⟩ := s.acceptAll_reject_frame ((addrselPrims a s.cfg).take k) landed
    (.set (addressLine k) (a.getLsbD k))
  refine ⟨_, exec_addrsel_of_rejectsFirst hk hrej, hfault, fun i hi => ?_, ?_, fun i hi => ?_, fun hw b => ?_, ?_⟩
  · rw [State.reject_addressLine_address _ hk, if_neg hi.ne, hmixed, if_pos hi]
  · rw [State.reject_addressLine_address _ hk, if_pos rfl, hmixed, if_neg k.lt_irrefl]
  · rw [State.reject_addressLine_address _ hk, if_neg hi.ne', hmixed, if_neg hi.le.not_gt]
  · exact (State.reject_address_readCell _ (isAddressLine_addressLine k) _ landed (htarget.weN.trans hw) b).trans
      (htarget.cells hw b)
  · have hlength : (accepted s.cfg ((addrselPrims a s.cfg).take k)).length = k := by
      rw [accepted, List.length_map, List.length_take, addrselPrims_length]
      omega
    simp [htrace, hlength, Nat.add_assoc]

end Sys2Proof.Machine
end

section
/-! SUPPORT. Events on DATA, CLK and LATCH, and WAITs: the address and the write enable stay, so the memory changes at
the addressed cell alone, and that with `WE_n = 0` only (20_memory.md R38). -/

namespace Sys2Proof.Machine

/-! ### The events -/

/-- Whether `p` is one of the lines of the shift controller. -/
def isShiftLine (p : Line) : Bool := decide (p = .data ∨ p = .clk ∨ p = .latch)

/-- The event drives no line but DATA, CLK or LATCH. -/
def Prim.onShiftLines : Prim → Bool
  | .set p _ => isShiftLine p
  | .wait _ => true

theorem isAddressLine_of_isShiftLine {p : Line} (hp : isShiftLine p = true) : isAddressLine p = false := by
  obtain rfl | rfl | rfl := of_decide_eq_true hp <;> rfl

theorem Lines.weN_set_shift (l : Lines) {p : Line} (hp : isShiftLine p = true) (v : Bool) :
    (l.set p v).weN = l.weN :=
  l.get_set_other p .weN v (by rintro rfl; cases hp)

theorem shbeginPrims_onShiftLines : ∀ e ∈ shbeginPrims, e.onShiftLines = true := by decide

theorem shbitPrims_onShiftLines (b : Bool) : ∀ e ∈ shbitPrims b, e.onShiftLines = true := by
  simp [shbitPrims, Prim.onShiftLines, isShiftLine]

theorem latchPrims_onShiftLines : ∀ e ∈ latchPrims, e.onShiftLines = true := by decide

theorem shiftoutPrims_onShiftLines (w : Byte) (o : Order) : ∀ e ∈ shiftoutPrims w o, e.onShiftLines = true := by
  intro e he
  rcases List.mem_append.1 he with he | he
  · rcases List.mem_append.1 he with he | he
    · exact shbeginPrims_onShiftLines e he
    · obtain ⟨b, -, he⟩ := List.mem_flatMap.1 he
      exact shbitPrims_onShiftLines b e he
  · exact latchPrims_onShiftLines e he

/-! ### The memory -/

/-- The address and the write enable are unchanged, and the memory is what they make of it. -/
structure CommitsInPlace (s t : State) : Prop where
  cell : t.cell = s.cell
  weN : t.lines.weN = s.lines.weN
  commits : CommitsWhileEnabled s t

theorem CommitsInPlace.trans {s t u : State} (hst : CommitsInPlace s t) (htu : CommitsInPlace t u) :
    CommitsInPlace s u := by
  obtain ⟨hcell, hweN, hothers, hkeep, -⟩ := hst
  obtain ⟨hcell', hweN', hothers', hkeep', hcommit'⟩ := htu
  rw [hcell] at hcell' hothers' hkeep' hcommit'
  rw [hweN] at hweN' hkeep' hcommit'
  exact ⟨hcell', hweN', fun b hb => (hothers' b hb).trans (hothers b hb), fun hw => (hkeep' hw).trans (hkeep hw),
    hcommit'⟩

theorem CommitsInPlace.readCell {s t : State} (h : CommitsInPlace s t) (hw : s.lines.weN = true) (b : Nat) :
    t.readCell b = s.readCell b := by
  obtain ⟨hothers, hkeep, -⟩ := h.commits
  by_cases hb : b = s.cell
  · exact hb ▸ hkeep hw
  · exact hothers b hb

/-- It is read off the lines, `Q` and the memory alone. -/
theorem CommitsInPlace.congr {s t u : State} (h : CommitsInPlace s t) (hlines : u.lines = t.lines) (hq : u.q = t.q)
    (hm : u.m = t.m) : CommitsInPlace s u := by
  obtain ⟨hcell, hweN, hcommits⟩ := h
  refine ⟨?_, hlines ▸ hweN, ?_⟩
  · rwa [State.cell, hlines]
  · simpa only [CommitsWhileEnabled, SameCellsBut, State.readCell, hq, hm] using hcommits

theorem State.drive_commitsInPlace (s : State) {p : Line} (hp : isShiftLine p = true) (v : Bool) :
    CommitsInPlace s (s.drive p v) := by
  have hstay : s.lines.get p = v ∨ isAddressLine p = false := .inr (isAddressLine_of_isShiftLine hp)
  have hcell := s.drive_cell p v hstay
  have hweN := s.lines.weN_set_shift hp v
  refine ⟨hcell, hweN, fun b hb => s.drive_readCell_other p v b hb (hcell ▸ hb),
    fun hw => s.drive_readCell_of_weN p v (hweN.trans hw) _, fun hw => ?_⟩
  rw [← hcell]
  exact s.drive_readCell_cell p v hstay (hweN.trans hw)

theorem State.settle_commitsInPlace (s : State) : CommitsInPlace s s.settle := ⟨rfl, rfl, s.settle_commits⟩

theorem State.accept_commitsInPlace (s : State) {e : Prim} (he : e.onShiftLines = true) :
    CommitsInPlace s (s.accept e) := by
  cases e with
  | set p v => exact (s.drive_commitsInPlace he v).congr rfl rfl rfl
  | wait d => exact s.settle_commitsInPlace.congr rfl rfl rfl

theorem State.reject_commitsInPlace (s : State) (landed : Bool) {e : Prim} (he : e.onShiftLines = true) :
    CommitsInPlace s (s.reject landed e) := by
  obtain ⟨hlines, -, hq, hm⟩ := s.reject_target landed e
  cases e with
  | set p v => exact (s.drive_commitsInPlace he _).congr hlines hq hm
  | wait d => exact s.settle_commitsInPlace.congr hlines hq hm

theorem State.acceptAll_commitsInPlace (s : State) {es : List Prim} (h : ∀ e ∈ es, e.onShiftLines = true)
    (hne : es ≠ []) : CommitsInPlace s (s.acceptAll es) := by
  induction es generalizing s with
  | nil => exact absurd rfl hne
  | cons e rest ih =>
    obtain ⟨he, hrest⟩ := List.forall_mem_cons.1 h
    have hfirst := s.accept_commitsInPlace he
    cases rest with
    | nil => exact hfirst
    | cons => exact hfirst.trans (ih (s.accept e) hrest nofun)

theorem State.acceptAll_reject_commitsInPlace (s : State) (landed : Bool) {es : List Prim} {e : Prim}
    (h : ∀ e ∈ es, e.onShiftLines = true) (he : e.onShiftLines = true) :
    CommitsInPlace s ((s.acceptAll es).reject landed e) := by
  induction es generalizing s with
  | nil => exact s.reject_commitsInPlace landed he
  | cons e' rest ih =>
    obtain ⟨he', hrest⟩ := List.forall_mem_cons.1 h
    exact (s.accept_commitsInPlace he').trans (ih (s.accept e') hrest)

end Sys2Proof.Machine
end

section
/-! SUPPORT. The outputs (20_memory.md R37): what leaves LATCH low leaves `Q` alone, and what drives no CLK leaves
`Q` at `SR` where it is at `SR`. -/

namespace Sys2Proof.Machine

/-! ### LATCH low -/

theorem State.qSettled_of_latch_low (s : State) (h : s.lines.latch = false) : s.qSettled = s.q :=
  if_neg (by simp [State.released, h])

theorem State.qAfter_of_latch_low (s : State) (p : Line) (v : Bool) (h : (s.lines.set p v).latch = false) :
    s.qAfter p v = s.q := by
  cases hmode : s.params.latchMode with
  | level => simp [s.qAfter_of_level p v hmode, h]
  | edge => simp [s.qAfter_of_edge p v hmode, h]

theorem State.accept_q_of_latch_low (s : State) (e : Prim) (h : (s.accept e).lines.latch = false) :
    (s.accept e).q = s.q := by
  cases e with
  | set p v => exact s.qAfter_of_latch_low p v h
  | wait d => exact s.qSettled_of_latch_low h

theorem State.reject_q_of_latch_low (s : State) (landed : Bool) (e : Prim)
    (h : (s.reject landed e).lines.latch = false) : (s.reject landed e).q = s.q := by
  obtain ⟨hlines, -, hq, -⟩ := s.reject_target landed e
  rw [hlines] at h
  rw [hq]
  cases e with
  | set p v => exact s.qAfter_of_latch_low p _ h
  | wait d => exact s.qSettled_of_latch_low h

/-- The event does not drive LATCH high. -/
def Prim.keepsLatchLow : Prim → Bool
  | .set p v => decide (p = .latch → v = false)
  | .wait _ => true

theorem Lines.latch_low_set {l : Lines} (h : l.latch = false) {p : Line} {v : Bool} (hpv : p = .latch → v = false) :
    (l.set p v).latch = false := by
  by_cases hp : p = .latch
  · subst hp
    exact hpv rfl
  · exact (l.get_set_other p .latch v (Ne.symm hp)).trans h

theorem State.accept_latch_low {s : State} (h : s.lines.latch = false) {e : Prim} (he : e.keepsLatchLow = true) :
    (s.accept e).lines.latch = false := by
  cases e with
  | set p v => exact Lines.latch_low_set h (of_decide_eq_true he)
  | wait d => exact h

theorem State.reject_latch_low {s : State} (h : s.lines.latch = false) (landed : Bool) {e : Prim}
    (he : e.keepsLatchLow = true ∨ landed = false) : (s.reject landed e).lines.latch = false := by
  rw [(s.reject_target landed e).1]
  cases e with
  | set p v =>
    refine Lines.latch_low_set h ?_
    rintro rfl
    cases landed with
    | false => exact h
    | true => exact of_decide_eq_true (he.resolve_right nofun) rfl
  | wait d => exact h

theorem State.acceptAll_latch_low {s : State} (h : s.lines.latch = false) {es : List Prim}
    (hes : ∀ e ∈ es, e.keepsLatchLow = true) :
    (s.acceptAll es).lines.latch = false ∧ (s.acceptAll es).q = s.q := by
  induction es generalizing s with
  | nil => exact ⟨h, rfl⟩
  | cons e rest ih =>
    obtain ⟨he, hrest⟩ := List.forall_mem_cons.1 hes
    have hlow := State.accept_latch_low h he
    obtain ⟨hlatch, hq⟩ := ih hlow hrest
    exact ⟨hlatch, hq.trans (s.accept_q_of_latch_low e hlow)⟩

/-! ### Events on other lines than LATCH -/

/-- The event drives no LATCH. -/
def Prim.offLatch : Prim → Bool
  | .set p _ => decide (p ≠ .latch)
  | .wait _ => true

/-- Where the outputs are not released, an event on another line leaves `Q` alone, and does not release them. -/
theorem State.accept_q_of_not_released {s : State} (h : ¬s.released) {e : Prim} (he : e.offLatch = true) :
    (s.accept e).q = s.q ∧ ¬(s.accept e).released := by
  cases e with
  | set p v =>
    have hp : p ≠ .latch := of_decide_eq_true he
    have hkeep : (s.lines.set p v).latch = s.lines.latch := s.lines.get_set_other p .latch v hp.symm
    have hstill : ¬(s.params.latchMode = .level ∧ (s.lines.set p v).latch = true) := by rwa [hkeep]
    have hq : s.qAfter p v = (s.setLine p v).q := if_neg hstill
    exact ⟨hq.trans (if_neg fun hrise => hp hrise.2.1), hstill⟩
  | wait d => exact ⟨if_neg h, h⟩

theorem State.acceptAll_q_of_not_released {s : State} (h : ¬s.released) {es : List Prim}
    (hes : ∀ e ∈ es, e.offLatch = true) : (s.acceptAll es).q = s.q := by
  induction es generalizing s with
  | nil => rfl
  | cons e rest ih =>
    obtain ⟨he, hrest⟩ := List.forall_mem_cons.1 hes
    obtain ⟨hq, hstill⟩ := State.accept_q_of_not_released h he
    exact (ih hstill hrest).trans hq

/-! ### Events on other lines than CLK -/

/-- The event drives no CLK. -/
def Prim.offClock : Prim → Bool
  | .set p _ => decide (p ≠ .clk)
  | .wait _ => true

theorem State.accept_sr_of_offClock (s : State) {e : Prim} (he : e.offClock = true) : (s.accept e).sr = s.sr := by
  cases e with
  | set p v => exact s.drive_sr_other p v (of_decide_eq_true he)
  | wait d => rfl

theorem State.acceptAll_sr_of_offClock (s : State) {es : List Prim} (hes : ∀ e ∈ es, e.offClock = true) :
    (s.acceptAll es).sr = s.sr := by
  induction es generalizing s with
  | nil => rfl
  | cons e rest ih =>
    obtain ⟨he, hrest⟩ := List.forall_mem_cons.1 hes
    exact (ih (s.accept e) hrest).trans (s.accept_sr_of_offClock he)

/-! ### `Q` at `SR` -/

/-- The register and the outputs hold one word. -/
def State.holdsWord (s : State) (w : Byte) : Prop := s.sr = w ∧ s.q = w

theorem State.qAfter_cases (s : State) (p : Line) (v : Bool) :
    s.qAfter p v = s.srAfter p v ∨ s.qAfter p v = s.q := by
  cases hmode : s.params.latchMode with
  | level =>
    rw [s.qAfter_of_level p v hmode]
    exact ite_eq_or_eq _ _ _
  | edge =>
    rw [s.qAfter_of_edge p v hmode]
    exact ite_eq_or_eq _ _ _

theorem State.holdsWord.drive {s : State} {w : Byte} (h : s.holdsWord w) {p : Line} (hp : p ≠ .clk) (v : Bool) :
    (s.drive p v).holdsWord w := by
  obtain ⟨hsr, hq⟩ := h
  have hsr' : s.srAfter p v = w := (s.drive_sr_other p v hp).trans hsr
  refine ⟨hsr', ?_⟩
  rcases s.qAfter_cases p v with h | h
  · exact h.trans hsr'
  · exact h.trans hq

theorem State.holdsWord.settle {s : State} {w : Byte} (h : s.holdsWord w) : s.settle.holdsWord w := by
  obtain ⟨hsr, hq⟩ := h
  refine ⟨hsr, ?_⟩
  rcases ite_eq_or_eq s.released s.sr s.q with h | h
  · exact h.trans hsr
  · exact h.trans hq

theorem State.holdsWord.accept {s : State} {w : Byte} (h : s.holdsWord w) {e : Prim} (he : e.offClock = true) :
    (s.accept e).holdsWord w := by
  cases e with
  | set p v => exact h.drive (of_decide_eq_true he) v
  | wait d => exact h.settle

theorem State.holdsWord.reject {s : State} {w : Byte} (h : s.holdsWord w) (landed : Bool) {e : Prim}
    (he : e.offClock = true) : (s.reject landed e).holdsWord w := by
  obtain ⟨-, hsr, hq, -⟩ := s.reject_target landed e
  rw [State.holdsWord, hsr, hq]
  cases e with
  | set p v => exact h.drive (of_decide_eq_true he) _
  | wait d => exact h.settle

theorem State.holdsWord.acceptAll {s : State} {w : Byte} (h : s.holdsWord w) {es : List Prim}
    (hes : ∀ e ∈ es, e.offClock = true) : (s.acceptAll es).holdsWord w := by
  induction es generalizing s with
  | nil => exact h
  | cons e rest ih =>
    obtain ⟨he, hrest⟩ := List.forall_mem_cons.1 hes
    exact ih (h.accept he) hrest

/-- LATCH driven high transfers the register, in LEVEL mode from either level, in EDGE mode from low (R37). -/
theorem State.drive_latch_holdsWord (s : State) (h : s.params.latchMode = .level ∨ s.lines.latch = false) :
    (s.drive .latch true).holdsWord s.sr := by
  have hsr : s.srAfter .latch true = s.sr := s.drive_sr_other .latch true nofun
  refine ⟨hsr, ?_⟩
  cases hmode : s.params.latchMode with
  | level => simp [s.qAfter_of_level .latch true hmode, Lines.set, hsr]
  | edge =>
    have hlow : s.lines.latch = false := h.resolve_left (by simp [hmode])
    simp [s.qAfter_of_edge .latch true hmode, Lines.set, hsr, hlow]

end Sys2Proof.Machine
end

section
/-! SUPPORT. SHBEGIN, SHBIT and LATCH with their events accepted (43_shift_controller.md R91, R92, R94). -/

namespace Sys2Proof.Machine

/-- A composite operation with its events accepted is its events one after another. -/
theorem exec_of_answersOk {i : Instr} {s : State} {es : List Prim} (hexec : exec i s = .next (s.runPrims 0 es).1)
    (hok : s.answersOk es.length) : exec i s = .next (s.acceptAll es) := by
  rw [hexec, s.runPrims_ok 0 es hok]

/-! ### SHBEGIN -/

/-- Settles O27: the one event leaves LATCH low, and where LATCH was low already it changes no line. -/
theorem shbeginFreezesTheOutputs : Obligations.ShbeginFreezesTheOutputs := by
  intro s hok
  obtain ⟨hregs, hhost, htrace, -⟩ := s.acceptAll_frame shbeginPrims
  have hplace := s.acceptAll_commitsInPlace shbeginPrims_onShiftLines nofun
  refine ⟨_, exec_of_answersOk rfl hok, rfl, s.drive_sr_other .latch false nofun,
    s.qAfter_of_latch_low .latch false rfl, hplace.commits, fun hsettled hlow => ?_, htrace, hregs, hhost⟩
  show SameTarget s (s.drive .latch false)
  rw [s.drive_same .latch false hlow]
  exact State.settle_sameTarget hsettled

/-! ### SHBIT -/

theorem State.acceptAll_shbitPrims_lines (s : State) (b : Bool) :
    (s.acceptAll (shbitPrims b)).lines = { s.lines with data := b, clk := false } := rfl

/-- Of the clock's rise and fall one is the target's edge, but a rise from high is none (20_memory.md R34). -/
theorem State.acceptAll_shbitPrims_sr (s : State) (b : Bool) :
    (s.shiftsEight → (s.acceptAll (shbitPrims b)).sr = shiftin s.params.firstBit s.sr b)
      ∧ (¬s.shiftsEight → (s.acceptAll (shbitPrims b)).sr = s.sr) := by
  cases hedge : s.params.shiftEdge with
  | rising =>
    cases hclk : s.lines.clk <;>
      simp [State.shiftsEight, shbitPrims, State.srAfter, Lines.set, shifts, hedge, hclk]
  | falling => simp [State.shiftsEight, shbitPrims, State.srAfter, Lines.set, shifts, hedge]

theorem shbitPrims_offLatch (b : Bool) : ∀ e ∈ shbitPrims b, e.offLatch = true := by
  simp [shbitPrims, Prim.offLatch]

/-- SHBIT drives no LATCH, so `Q` follows `SR` while released and stays otherwise. -/
theorem State.acceptAll_shbitPrims_q (s : State) (b : Bool) :
    (s.acceptAll (shbitPrims b)).q
      = if s.params.latchMode = .level ∧ s.lines.latch = true then (s.acceptAll (shbitPrims b)).sr else s.q := by
  split
  · next hreleased => exact s.acceptAll_outputsFollow (es := shbitPrims b) nofun hreleased.1 hreleased.2
  · next h => exact State.acceptAll_q_of_not_released h (shbitPrims_offLatch b)

/-- Settles O28: the events drive DATA and pulse CLK. -/
theorem shbitShiftsOneBit : Obligations.ShbitShiftsOneBit := by
  intro b s hok
  obtain ⟨hregs, hhost, htrace, -⟩ := s.acceptAll_frame (shbitPrims b)
  obtain ⟨hshift, hnone⟩ := s.acceptAll_shbitPrims_sr b
  have hplace := s.acceptAll_commitsInPlace (shbitPrims_onShiftLines b) nofun
  exact ⟨_, exec_of_answersOk rfl hok, s.acceptAll_shbitPrims_lines b, hshift, hnone, s.acceptAll_shbitPrims_q b,
    hplace.commits, htrace, hregs, hhost⟩

/-! ### LATCH -/

theorem latchPrims_leastMs (c : Cfg) : (latchPrims.map (Prim.leastMs c)).sum = c.tLatch.toNat := by
  simp [latchPrims, Prim.leastMs, Cfg.delay]

theorem State.accept_latch_holdsWord {s : State} (h : s.params.latchMode = .level ∨ s.lines.latch = false) :
    (s.accept (.set .latch true)).holdsWord s.sr :=
  s.drive_latch_holdsWord h

theorem State.acceptAll_latchPrims_holdsWord {s : State} (h : s.params.latchMode = .level ∨ s.lines.latch = false) :
    (s.acceptAll latchPrims).holdsWord s.sr :=
  (State.accept_latch_holdsWord h).acceptAll (es := [.wait .tLatch, .set .latch false]) (by decide)

/-- In EDGE mode LATCH driven high from high is no rise, and its fall is none either (20_memory.md R37). -/
theorem State.acceptAll_latchPrims_q_of_no_rise (s : State) (hmode : s.params.latchMode = .edge)
    (hhigh : s.lines.latch = true) : (s.acceptAll latchPrims).q = s.q := by
  have hfirst : (s.accept (.set .latch true)).q = s.q :=
    (s.qAfter_of_edge .latch true hmode).trans (if_neg (by simp [hhigh]))
  have hedge : ¬(s.accept (.set .latch true)).released := by simp [State.released, hmode]
  have hwait := (State.accept_q_of_not_released hedge (e := .wait .tLatch) rfl).1
  exact ((State.accept_q_of_latch_low _ (.set .latch false) rfl).trans hwait).trans hfirst

/-- Settles O29: the first event transfers the register, or is no rise, and the others leave the outputs alone. -/
theorem latchTransfersTheRegister : Obligations.LatchTransfersTheRegister := by
  intro s hok
  obtain ⟨hregs, hhost, htrace, -⟩ := s.acceptAll_frame latchPrims
  have hplace := s.acceptAll_commitsInPlace latchPrims_onShiftLines nofun
  have htime := s.time_le_acceptAll latchPrims
  rw [latchPrims_leastMs] at htime
  exact ⟨_, exec_of_answersOk rfl hok, rfl, s.acceptAll_sr_of_offClock (by decide),
    fun h => (State.acceptAll_latchPrims_holdsWord h).2, fun ⟨hmode, hhigh⟩ =>
      s.acceptAll_latchPrims_q_of_no_rise hmode hhigh, hplace.commits, htrace, htime, hregs, hhost⟩

end Sys2Proof.Machine
end

section
/-! SUPPORT. The frame of a word shifted into the register, and SHIFTOUT with its events accepted
(30_encoding.md R54, 20_memory.md R35, R36, 43_shift_controller.md R93). -/

namespace Sys2Proof.Machine

/-! ### A list of bits shifted in (R35) -/

/-- With the first bit landing in bit 0, the register is the last 8 of its own bits from bit 0 up and the new bits. -/
theorem foldl_shiftin_bit0 (bits : List Bool) (sr : Byte) {i : Nat} (hi : i < 8) :
    (bits.foldl (shiftin .bit0) sr).getLsbD i
      = if i + bits.length < 8 then sr.getLsbD (i + bits.length) else bits.getD (i + bits.length - 8) false := by
  induction bits generalizing sr with
  | nil => simp [hi]
  | cons b rest ih =>
    rw [List.foldl_cons, ih, List.length_cons, ← Nat.add_assoc]
    rcases Nat.lt_trichotomy (i + rest.length) 7 with h | h | h
    · rw [if_pos (by omega), if_pos (by omega), shiftin_bit0_moves _ _ h]
    · rw [if_pos (by omega), if_neg (by omega), h, shiftin_bit0_enters]
      rfl
    · rw [if_neg (by omega), if_neg (by omega), show i + rest.length + 1 - 8 = i + rest.length - 8 + 1 by omega,
        List.getD_cons_succ]

/-- With the first bit landing in bit 7, it is the last 8 of its own bits from bit 7 down and the new bits. -/
theorem foldl_shiftin_bit7 (bits : List Bool) (sr : Byte) {i : Nat} (hi : i < 8) :
    (bits.foldl (shiftin .bit7) sr).getLsbD i
      = if i < bits.length then bits.getD (bits.length - 1 - i) false else sr.getLsbD (i - bits.length) := by
  induction bits generalizing sr with
  | nil => simp
  | cons b rest ih =>
    rw [List.foldl_cons, ih, List.length_cons, Nat.add_sub_cancel]
    rcases Nat.lt_trichotomy i rest.length with h | h | h
    · rw [if_pos h, if_pos (by omega), show rest.length - i = rest.length - 1 - i + 1 by omega, List.getD_cons_succ]
    · rw [if_neg (by omega), if_pos (by omega), h, Nat.sub_self, shiftin_bit7_enters]
      rfl
    · rw [if_neg (by omega), if_neg (by omega), show i - rest.length = i - (rest.length + 1) + 1 by omega,
        shiftin_bit7_moves _ _ (by omega)]

/-! ### The frame (R54) -/

theorem frame_lsbFirst_getD (w : Byte) : ∀ i < 8, (frame w .lsbFirst).getD i false = w.getLsbD i := by
  intro i hi
  interval_cases i <;> rfl

theorem frame_msbFirst_getD (w : Byte) : ∀ i < 8, (frame w .msbFirst).getD i false = w.getLsbD (7 - i) := by
  intro i hi
  interval_cases i <;> rfl

/-- A frame of 8 bits replaces all of the register's (20_memory.md R36). -/
theorem foldl_shiftin_frame (f : FirstBitLands) (sr w : Byte) (o : Order) :
    (frame w o).foldl (shiftin f) sr = deliver o f w := by
  apply BitVec.eq_of_getLsbD_eq
  intro i hi
  cases f with
  | bit0 =>
    rw [foldl_shiftin_bit0 _ _ hi, frame_length, if_neg (by omega), Nat.add_sub_cancel]
    cases o with
    | lsbFirst => exact frame_lsbFirst_getD w i hi
    | msbFirst => exact (frame_msbFirst_getD w i hi).trans (bitrev8_getLsbD w i hi).symm
  | bit7 =>
    rw [foldl_shiftin_bit7 _ _ hi, frame_length, if_pos hi]
    cases o with
    | lsbFirst => exact (frame_lsbFirst_getD w (7 - i) (by omega)).trans (bitrev8_getLsbD w i hi).symm
    | msbFirst => rw [frame_msbFirst_getD w (8 - 1 - i) (by omega), deliver, show 7 - (8 - 1 - i) = i by omega]

/-! ### The events before the rise of LATCH -/

/-- The bits of the frame, each as its SHBIT. -/
def framePrims (w : Byte) (o : Order) : List Prim := (frame w o).flatMap shbitPrims

/-- The events of SHIFTOUT before LATCH rises: SHBEGIN and the SHBITs. -/
def shiftPrims (w : Byte) (o : Order) : List Prim := .set .latch false :: framePrims w o

theorem shiftoutPrims_eq (w : Byte) (o : Order) : shiftoutPrims w o = shiftPrims w o ++ latchPrims := rfl

theorem shiftPrims_length (w : Byte) (o : Order) : (shiftPrims w o).length = 25 := by cases o <;> rfl

theorem shbitPrims_keepsLatchLow (b : Bool) : ∀ e ∈ shbitPrims b, e.keepsLatchLow = true := by
  simp [shbitPrims, Prim.keepsLatchLow]

theorem framePrims_keepsLatchLow (w : Byte) (o : Order) : ∀ e ∈ framePrims w o, e.keepsLatchLow = true := by
  intro e he
  obtain ⟨b, -, he⟩ := List.mem_flatMap.1 he
  exact shbitPrims_keepsLatchLow b e he

/-- Bits whose first rise of CLK is an edge are shifted in, one at a time. -/
theorem State.acceptAll_shbits_sr {s : State} (h : s.shiftsEight) (bits : List Bool) :
    (s.acceptAll (bits.flatMap shbitPrims)).sr = bits.foldl (shiftin s.params.firstBit) s.sr := by
  induction bits generalizing s with
  | nil => rfl
  | cons b rest ih =>
    have hready : (s.acceptAll (shbitPrims b)).shiftsEight := .inl rfl
    rw [List.flatMap_cons, State.acceptAll_append, ih hready, State.acceptAll_params,
      (s.acceptAll_shbitPrims_sr b).1 h, List.foldl_cons]

theorem State.acceptAll_shbits_lines (s : State) {bits : List Bool} (hne : bits ≠ []) :
    (s.acceptAll (bits.flatMap shbitPrims)).lines
      = { s.lines with data := bits.getLastD false, clk := false } := by
  induction bits generalizing s with
  | nil => exact absurd rfl hne
  | cons b rest ih =>
    cases rest with
    | nil => rfl
    | cons c rest =>
      rw [List.flatMap_cons, State.acceptAll_append, ih _ (List.cons_ne_nil c rest), s.acceptAll_shbitPrims_lines b]
      rfl

theorem State.acceptAll_shiftPrims_sr {s : State} (h : s.shiftsEight) (w : Byte) (o : Order) :
    (s.acceptAll (shiftPrims w o)).sr = deliver o s.params.firstBit w := by
  have hready : (s.accept (.set .latch false)).shiftsEight := h
  have hbits := State.acceptAll_shbits_sr hready (frame w o)
  rw [State.accept_params, foldl_shiftin_frame] at hbits
  exact hbits

/-- From the fall of LATCH until its rise `Q` is as it was (43_shift_controller.md R93, 20_memory.md R37). -/
theorem State.acceptAll_take_shiftoutPrims_q (s : State) (w : Byte) (o : Order) {k : Nat} (h1 : 1 ≤ k)
    (h25 : k ≤ 25) :
    (s.acceptAll ((shiftoutPrims w o).take k)).lines.latch = false
      ∧ (s.acceptAll ((shiftoutPrims w o).take k)).q = s.q := by
  obtain ⟨j, rfl⟩ := Nat.exists_eq_add_of_le' h1
  have hfirst : (s.accept (.set .latch false)).q = s.q := s.accept_q_of_latch_low _ rfl
  rw [shiftoutPrims_eq, List.take_append_of_le_length (by rwa [shiftPrims_length]), shiftPrims, List.take_succ_cons,
    State.acceptAll_cons, ← hfirst]
  exact State.acceptAll_latch_low rfl fun e he => framePrims_keepsLatchLow w o e (List.mem_of_mem_take he)

theorem State.acceptAll_shiftPrims_latch (s : State) (w : Byte) (o : Order) :
    (s.acceptAll (shiftPrims w o)).lines.latch = false :=
  (State.acceptAll_latch_low rfl (framePrims_keepsLatchLow w o)).1

/-! ### All events accepted -/

theorem exec_shiftout_of_answersOk {o : Order} {s : State} (h : s.answersOk 28) :
    exec (.shiftout o) s = .next (s.acceptAll (shiftoutPrims s.w o)) := by
  show Host.Outcome.next (afterShiftout (s.runPrims 0 (shiftoutPrims s.w o))) = _
  rw [← shiftoutPrims_length s.w o] at h
  rw [s.runPrims_ok 0 _ h]
  rfl

theorem shiftoutPrims_leastMs (w : Byte) (o : Order) (c : Cfg) :
    ((shiftoutPrims w o).map (Prim.leastMs c)).sum = c.tLatch.toNat := by
  cases o <;> simp [shiftoutPrims, frame, shbeginPrims, shbitPrims, latchPrims, Prim.leastMs, Cfg.delay]

theorem State.acceptAll_shiftoutPrims_lines (s : State) (w : Byte) (o : Order) :
    (s.acceptAll (shiftoutPrims w o)).lines
      = { s.lines with data := (frame w o).getLastD false, clk := false, latch := false } := by
  have hne : frame w o ≠ [] := List.ne_nil_of_length_pos (by simp)
  have hbits := (s.accept (.set .latch false)).acceptAll_shbits_lines hne
  rw [shiftoutPrims_eq, State.acceptAll_append]
  show { (s.acceptAll (shiftPrims w o)).lines with latch := false } = _
  rw [shiftPrims, State.acceptAll_cons, framePrims, hbits]
  rfl

/-- The events of SHIFTOUT up to the rise of LATCH, and the two after it. -/
theorem shiftoutPrims_eq_rise (w : Byte) (o : Order) :
    shiftoutPrims w o = (shiftPrims w o ++ [.set .latch true]) ++ [.wait .tLatch, .set .latch false] := by
  rw [List.append_assoc]
  rfl

/-- Once LATCH has risen, the register and the outputs hold the delivered word. -/
theorem State.acceptAll_rise_holdsWord {s : State} (h : s.shiftsEight) (w : Byte) (o : Order) :
    (s.acceptAll (shiftPrims w o ++ [.set .latch true])).holdsWord (deliver o s.params.firstBit w) := by
  rw [State.acceptAll_append, ← State.acceptAll_shiftPrims_sr h, State.acceptAll_cons, State.acceptAll_nil]
  exact State.accept_latch_holdsWord (.inr (s.acceptAll_shiftPrims_latch w o))

/-- They hold it to the end: the events after the rise drive no CLK. -/
theorem State.acceptAll_take_shiftoutPrims_holdsWord {s : State} (h : s.shiftsEight) (w : Byte) (o : Order) {k : Nat}
    (hk : 26 ≤ k) : (s.acceptAll ((shiftoutPrims w o).take k)).holdsWord (deliver o s.params.firstBit w) := by
  have hlength : (shiftPrims w o ++ [Prim.set .latch true]).length = 26 := by simp [shiftPrims_length]
  rw [shiftoutPrims_eq_rise, List.take_append, List.take_of_length_le (hlength.trans_le hk), State.acceptAll_append]
  have hquiet : ∀ e ∈ [Prim.wait .tLatch, .set .latch false], e.offClock = true := by decide
  exact (State.acceptAll_rise_holdsWord h w o).acceptAll fun e he => hquiet e (List.mem_of_mem_take he)

/-- Settles O30: eight shifts replace the whole register, and LATCH transfers it. -/
theorem shiftoutDeliversTheWord : Obligations.ShiftoutDeliversTheWord := by
  intro o s hok hshifts
  obtain ⟨hregs, hhost, htrace, -⟩ := s.acceptAll_frame (shiftoutPrims s.w o)
  obtain ⟨hsr, hq⟩ := State.acceptAll_take_shiftoutPrims_holdsWord hshifts s.w o (k := 28) (by omega)
  rw [List.take_of_length_le (shiftoutPrims_length s.w o).le] at hsr hq
  have hplace := s.acceptAll_commitsInPlace (shiftoutPrims_onShiftLines s.w o) (by simp [shiftoutPrims_eq, shiftPrims])
  have htime := s.time_le_acceptAll (shiftoutPrims s.w o)
  rw [shiftoutPrims_leastMs] at htime
  exact ⟨_, exec_shiftout_of_answersOk hok, hsr, hq, s.acceptAll_shiftoutPrims_lines s.w o, hplace.commits, htrace,
    shiftoutPrims_length s.w o, htime, hregs, hhost⟩

end Sys2Proof.Machine
end

section
/-! SUPPORT. SHIFTOUT rejected at one of its events (43_shift_controller.md R93, 60_exceptions.md R113, R121,
70_reset_and_hazards.md R132): from the fall of LATCH until its rise `Q` stays, and from then on it is the word. -/

namespace Sys2Proof.Machine

/-! ### The rejected event -/

theorem shiftPrims_keepsLatchLow (w : Byte) (o : Order) : ∀ e ∈ shiftPrims w o, e.keepsLatchLow = true :=
  List.forall_mem_cons.2 ⟨rfl, framePrims_keepsLatchLow w o⟩

section

variable {w : Byte} {o : Order} {k : Nat} {e : Prim}

theorem keepsLatchLow_of_lt_rise (hk : k < 25) (he : (shiftoutPrims w o)[k]? = some e) : e.keepsLatchLow = true := by
  rw [shiftoutPrims_eq, List.getElem?_append_left (by rwa [shiftPrims_length])] at he
  exact shiftPrims_keepsLatchLow w o e (List.mem_of_getElem? he)

theorem eq_fall_of_getElem? (he : (shiftoutPrims w o)[0]? = some e) : e = .set .latch false :=
  (Option.some.inj he).symm

theorem eq_rise_of_getElem? (he : (shiftoutPrims w o)[25]? = some e) : e = .set .latch true := by
  rw [shiftoutPrims_eq, List.getElem?_append_right (by rw [shiftPrims_length]), shiftPrims_length] at he
  exact (Option.some.inj he).symm

theorem offClock_of_rise_le (hk : 25 ≤ k) (he : (shiftoutPrims w o)[k]? = some e) : e.offClock = true := by
  rw [shiftoutPrims_eq, List.getElem?_append_right (by rwa [shiftPrims_length])] at he
  have hquiet : ∀ e ∈ latchPrims, e.offClock = true := by decide
  exact hquiet e (List.mem_of_getElem? he)

end

/-! ### What it leaves of the target -/

/-- A rejected first event leaves `SR`, and `Q` as R37 says of the level LATCH holds. -/
theorem State.reject_fall_target (s : State) (landed : Bool) :
    (s.reject landed (.set .latch false)).sr = s.sr
      ∧ (s.reject landed (.set .latch false)).q
        = if (s.reject landed (.set .latch false)).lines.latch = true then s.qSettled else s.q := by
  obtain ⟨hlines, hsr, hq, -⟩ := s.reject_set_target .latch false landed
  refine ⟨hsr.trans (s.drive_sr_other .latch (s.levelLeft .latch false landed) nofun), ?_⟩
  split
  · next hhigh =>
    rw [hlines] at hhigh
    have hleft : s.levelLeft .latch false landed = true := hhigh
    have hkeep : s.lines.latch = s.levelLeft .latch false landed :=
      ((s.levelLeft_cases .latch false landed).resolve_left (by simp [hleft])).symm
    exact hq.trans (s.qAfter_eq_qSettled .latch _ (.inl hkeep))
  · next hlow => exact s.reject_q_of_latch_low landed _ (Bool.eq_false_of_not_eq_true hlow)

theorem State.reject_landed_rise_holdsWord {s : State} (h : s.lines.latch = false) :
    (s.reject true (.set .latch true)).holdsWord s.sr := by
  obtain ⟨-, hsr, hq, -⟩ := s.reject_target true (.set .latch true)
  rw [State.holdsWord, hsr, hq]
  exact s.drive_latch_holdsWord (.inr h)

/-- The state of a SHIFTOUT of `w` whose event `k`, which is `e`, was rejected. -/
def State.shiftoutRejected (s : State) (w : Byte) (o : Order) (k : Nat) (landed : Bool) (e : Prim) : State :=
  (s.acceptAll ((shiftoutPrims w o).take k)).reject landed e

section

variable (s : State) {w : Byte} {o : Order} {k : Nat} {landed : Bool} {e : Prim}
  (he : (shiftoutPrims w o)[k]? = some e)

include he

theorem State.shiftoutRejected_before_rise (h1 : 1 ≤ k) (hk : k < 25 ∨ k = 25 ∧ landed = false) :
    (s.shiftoutRejected w o k landed e).lines.latch = false ∧ (s.shiftoutRejected w o k landed e).q = s.q := by
  obtain ⟨hlow, hq⟩ := s.acceptAll_take_shiftoutPrims_q w o h1 (by omega)
  have hlow' := State.reject_latch_low hlow landed (hk.imp (keepsLatchLow_of_lt_rise · he) And.right)
  exact ⟨hlow', (State.reject_q_of_latch_low _ landed e hlow').trans hq⟩

theorem State.shiftoutRejected_after_rise (hk : 25 < k ∨ k = 25 ∧ landed = true) (hshifts : s.shiftsEight) :
    (s.shiftoutRejected w o k landed e).holdsWord (deliver o s.params.firstBit w) := by
  rcases hk with hk | ⟨rfl, rfl⟩
  · exact (State.acceptAll_take_shiftoutPrims_holdsWord hshifts w o hk).reject landed (offClock_of_rise_le hk.le he)
  · obtain rfl := eq_rise_of_getElem? he
    rw [State.shiftoutRejected, shiftoutPrims_eq, List.take_left' (shiftPrims_length w o),
      ← State.acceptAll_shiftPrims_sr hshifts]
    exact State.reject_landed_rise_holdsWord (s.acceptAll_shiftPrims_latch w o)

/-- A rejected rise that has landed leaves LATCH high (20_memory.md R40). -/
theorem State.shiftoutRejected_latch_high (hk : k = 25 ∧ landed = true) :
    (s.shiftoutRejected w o k landed e).lines.latch = true := by
  obtain ⟨rfl, rfl⟩ := hk
  obtain rfl := eq_rise_of_getElem? he
  obtain ⟨hlines, -⟩ := State.reject_set_target (s.acceptAll ((shiftoutPrims w o).take 25)) .latch true true
  rw [State.shiftoutRejected, hlines]
  rfl

theorem State.shiftoutRejected_readCell (hw : s.lines.weN = true) (b : Nat) :
    (s.shiftoutRejected w o k landed e).readCell b = s.readCell b := by
  have hall := shiftoutPrims_onShiftLines w o
  have hplace := s.acceptAll_reject_commitsInPlace landed (es := (shiftoutPrims w o).take k)
    (fun e he => hall e (List.mem_of_mem_take he)) (hall e (List.mem_of_getElem? he))
  exact hplace.readCell hw b

theorem State.shiftoutRejected_frame :
    FaultsHere s (s.shiftoutRejected w o k landed e) ∧ (s.shiftoutRejected w o k landed e).w = s.w
      ∧ (s.shiftoutRejected w o k landed e).trace.length = s.trace.length + k + 1 := by
  have hk : k < 28 := shiftoutPrims_length w o ▸ (List.getElem?_eq_some_iff.1 he).1
  obtain ⟨hfault, htrace⟩ := s.acceptAll_reject_frame ((shiftoutPrims w o).take k) landed e
  obtain ⟨⟨-, -, -, hw, -⟩, -⟩ := s.acceptAll_frame ((shiftoutPrims w o).take k)
  obtain ⟨-, hw', -⟩ := (s.acceptAll ((shiftoutPrims w o).take k)).reject_frame landed e
  refine ⟨hfault, hw'.trans hw, ?_⟩
  rw [State.shiftoutRejected, htrace]
  simp [accepted, hk.le, Nat.add_assoc]

end

/-! ### What the aborted shift makes of it -/

/-- Losing the shift touches `SR` and the draws alone. -/
theorem afterShiftout_frame (t : State) (k : Nat) :
    SameRegisters t (afterShiftout (t, some k)) ∧ (afterShiftout (t, some k)).lines = t.lines
      ∧ (afterShiftout (t, some k)).q = t.q ∧ (afterShiftout (t, some k)).m = t.m
      ∧ (afterShiftout (t, some k)).trace = t.trace := by
  simp only [afterShiftout]
  split <;> simp [SameRegisters]

/-- `SR` is lost within the shift only, and not where the outputs are released (log 11). -/
theorem afterShiftout_sr {t : State} {k : Nat} (h : shiftoutAborts k = false ∨ t.released) :
    (afterShiftout (t, some k)).sr = t.sr := by
  simp only [afterShiftout]
  split
  · next haborts => exact if_pos (h.resolve_left (by simp [haborts]))
  · rfl

theorem FaultsHere.then_sameRegisters {s t u : State} (h : FaultsHere s t) (hregs : SameRegisters t u) :
    FaultsHere s u := by
  obtain ⟨hphase, haCnt, hj, -, hcode, -⟩ := hregs
  simpa only [FaultsHere, hphase, haCnt, hj, hcode] using h

theorem exec_shiftout_of_rejectsFirst {o : Order} {k : Nat} {landed : Bool} {s : State} {e : Prim}
    (h : s.rejectsFirst k landed) (he : (shiftoutPrims s.w o)[k]? = some e) :
    exec (.shiftout o) s = .next (afterShiftout (s.shiftoutRejected s.w o k landed e, some k)) := by
  show Host.Outcome.next (afterShiftout (s.runPrims 0 (shiftoutPrims s.w o))) = _
  rw [s.runPrims_reject 0 k landed _ e h he, Nat.zero_add]
  rfl

/-- After the rise `SR` is not lost: the shift is over, or the rise has landed and in LEVEL mode the outputs are
released. -/
theorem State.shiftoutRejected_keeps_sr (s : State) {w : Byte} {o : Order} {k : Nat} {landed : Bool} {e : Prim}
    (he : (shiftoutPrims w o)[k]? = some e) (hk : 25 < k ∨ k = 25 ∧ landed = true)
    (h : 25 < k ∨ s.params.latchMode = .level) :
    (afterShiftout (s.shiftoutRejected w o k landed e, some k)).sr = (s.shiftoutRejected w o k landed e).sr := by
  apply afterShiftout_sr
  by_cases hlate : 25 < k
  · exact .inl (decide_eq_false (by omega))
  · have hmode : (s.shiftoutRejected w o k landed e).params.latchMode = .level := by
      rw [State.shiftoutRejected, State.reject_params, State.acceptAll_params]
      exact h.resolve_left hlate
    exact .inr ⟨hmode, s.shiftoutRejected_latch_high he (hk.resolve_left hlate)⟩

/-- Settles O32: the events before the rejected one, then its level left, by whether LATCH has risen. -/
theorem rejectedShiftoutStops : Obligations.RejectedShiftoutStops := by
  intro o k landed s hk hrej
  have hlt : k < (shiftoutPrims s.w o).length := by rwa [shiftoutPrims_length]
  obtain ⟨e, he⟩ : ∃ e, (shiftoutPrims s.w o)[k]? = some e := ⟨_, List.getElem?_eq_getElem hlt⟩
  obtain ⟨hfault, hw, htrace⟩ := s.shiftoutRejected_frame (landed := landed) he
  have hbefore := s.shiftoutRejected_before_rise (landed := landed) he
  obtain ⟨hregs, hlines, hq, hm, htrace'⟩ := afterShiftout_frame (s.shiftoutRejected s.w o k landed e) k
  have hfault' := hfault.then_sameRegisters hregs
  obtain ⟨-, -, -, hw', -⟩ := hregs
  refine ⟨_, exec_shiftout_of_rejectsFirst hrej he, hfault', hw'.trans hw, ?_, ?_, ?_, ?_, ?_, ?_⟩
  · rintro rfl
    obtain rfl := eq_fall_of_getElem? he
    exact s.reject_fall_target landed
  · exact fun h1 h25 => hq.trans (hbefore h1 h25).2
  · intro h25 hshifts
    obtain ⟨hsr, hq'⟩ := s.shiftoutRejected_after_rise he h25 hshifts
    exact ⟨hq.trans hq', fun h => (s.shiftoutRejected_keeps_sr he h25 h).trans hsr⟩
  · intro h1 h25
    rw [hlines]
    exact (hbefore h1 (.inl h25)).1
  · intro hwe b
    rw [State.readCell, hm]
    exact s.shiftoutRejected_readCell he hwe b
  · rw [htrace', htrace]

end Sys2Proof.Machine
end

section
/-! SUPPORT. The target under the drives of RESET, and an operation that RESET stops between two of its events
(43_shift_controller.md R95, 60_exceptions.md R119, 70_reset_and_hazards.md R130 to R132). -/

namespace Sys2Proof.Machine

/-! ### The drives of RESET -/

theorem State.driveAll_q_of_latch_low {s : State} (h : s.lines.latch = false) {l : List (Line × Bool)}
    (hl : ∀ e ∈ l, e.1 = .latch → e.2 = false) : (s.driveAll l).q = s.q := by
  induction l generalizing s with
  | nil => rfl
  | cons e rest ih =>
    obtain ⟨he, hrest⟩ := List.forall_mem_cons.1 hl
    have hlow : (s.drive e.1 e.2).lines.latch = false := Lines.latch_low_set h he
    exact (ih hlow hrest).trans (s.qAfter_of_latch_low e.1 e.2 hlow)

theorem State.driveAll_sr_of_offClock (s : State) {l : List (Line × Bool)} (hl : ∀ e ∈ l, e.1 ≠ .clk) :
    (s.driveAll l).sr = s.sr := by
  induction l generalizing s with
  | nil => rfl
  | cons e rest ih =>
    obtain ⟨he, hrest⟩ := List.forall_mem_cons.1 hl
    exact (ih (s.drive e.1 e.2) hrest).trans (s.drive_sr_other e.1 e.2 he)

/-- The first drive of RESET settles the outputs, the second makes LATCH low, and they stay (R130, log 10). -/
theorem State.driveAll_resetDrives_q (s : State) : (s.driveAll resetDrives).q = s.qSettled := by
  have hfirst : (s.drive .weN true).q = s.qSettled := s.qAfter_eq_qSettled .weN true (.inr ⟨nofun, nofun⟩)
  have hlatch := (s.drive .weN true).qAfter_of_latch_low .latch false rfl
  unfold resetDrives
  rw [State.driveAll_cons, State.driveAll_cons]
  exact ((State.driveAll_q_of_latch_low rfl (by decide)).trans hlatch).trans hfirst

theorem State.srAfter_clk_fall (s : State) :
    s.srAfter .clk false
      = if s.params.shiftEdge = .falling ∧ s.lines.clk = true then shiftin s.params.firstBit s.sr s.lines.data
        else s.sr := by
  split
  · next h => exact s.srAfter_of_edge false (by simp [h.2]) (by simp [h.1])
  · next h =>
    refine s.srAfter_of_no_edge .clk false (.inr ?_)
    cases hedge : s.params.shiftEdge with
    | rising => exact .inr (by decide)
    | falling => exact .inl (by simpa [hedge] using h)

/-- Of the drives of RESET only the fall of CLK can shift the register (20_memory.md R34). -/
theorem State.driveAll_resetDrives_sr (s : State) :
    (s.driveAll resetDrives).sr
      = if s.params.shiftEdge = .falling ∧ s.lines.clk = true then shiftin s.params.firstBit s.sr s.lines.data
        else s.sr := by
  have hbefore : ((s.drive .weN true).drive .latch false).sr = s.sr :=
    ((s.drive .weN true).drive_sr_other .latch false nofun).trans (s.drive_sr_other .weN true nofun)
  unfold resetDrives
  rw [State.driveAll_cons, State.driveAll_cons, State.driveAll_cons]
  refine (State.driveAll_sr_of_offClock _ (by decide)).trans ?_
  rw [State.drive_sr, State.srAfter_clk_fall, hbefore]
  rfl

/-- RESET that aborts no shift leaves `SR` as its drives do (R132). -/
theorem State.srAfterReset_false (s : State) : s.srAfterReset false = (s.driveAll resetDrives).sr :=
  if_neg (by simp)

theorem State.resetWith_readCell (s : State) (aborted : Bool) (b : Nat) :
    (s.resetWith aborted).readCell b = s.readCell b := by
  rw [State.readCell, State.resetWith_m, State.driveAll_resetDrives_m, State.readCell]

/-! ### The operation stopped -/

theorem SameHost.trans {s t u : State} (hst : SameHost s t) (htu : SameHost t u) : SameHost s u := by
  obtain ⟨h1, h2, h3, h4, h5⟩ := hst
  obtain ⟨g1, g2, g3, g4, g5⟩ := htu
  exact ⟨g1.trans h1, g2.trans h2, g3.trans h3, g4.trans h4, g5.trans h5⟩

theorem State.answersOk.mono {s : State} {k n : Nat} (h : s.answersOk k) (hn : n ≤ k) : s.answersOk n :=
  fun j hj => h j (hj.trans_le hn)

/-- With the first `k` events accepted, RESET comes after exactly these. -/
theorem State.abandon_of_answersOk {s : State} {k : Nat} (h : s.answersOk k) (i : Instr) :
    s.abandon i k = (s.acceptAll ((opEvents s i).take k)).resetWith (opAborts s.cfg k i) := by
  rw [State.abandon, s.runPrims_ok 0 _ (h.mono (List.length_take_le k _))]
  rfl

theorem step_codeThenReset {s : State} {f : Format} {b : Byte} {k : Nat} {rest : List Turn} {i : Instr}
    (ht : s.turns = .codeThenReset f b k :: rest) (hd : decode f b = .instr i) (hpin : usesPinPath i = true)
    (hphase : s.phase ≠ .run) : step s = .next (({ s with turns := rest } : State).abandon i k) := by
  have hissue : ({ s with turns := rest } : State).issue f b = .run i := by
    rw [State.issue_instr hd]
    exact if_neg fun h => hphase h.1
  rw [step_of_turn ht, takeTurn, hissue]
  exact if_pos hpin

/-- A SHIFTOUT stopped within its shift has left `Q`, and with `WE_n = 1` every cell, as before (R93, R132). -/
theorem State.acceptAll_take_shiftoutPrims_keeps (s : State) (w : Byte) (o : Order) {k : Nat} (h1 : 1 ≤ k)
    (h25 : k ≤ 25) :
    (s.acceptAll ((shiftoutPrims w o).take k)).qSettled = s.q
      ∧ (s.lines.weN = true → ∀ c, (s.acceptAll ((shiftoutPrims w o).take k)).readCell c = s.readCell c) := by
  obtain ⟨hlow, hq⟩ := s.acceptAll_take_shiftoutPrims_q w o h1 h25
  refine ⟨(State.qSettled_of_latch_low _ hlow).trans hq, CommitsInPlace.readCell ?_⟩
  refine s.acceptAll_commitsInPlace (fun e he => shiftoutPrims_onShiftLines w o e (List.mem_of_mem_take he)) ?_
  refine List.ne_nil_of_length_pos ?_
  rw [List.length_take, shiftoutPrims_length]
  omega

/-- Settles O46: the accepted events and then a RESET, which makes LATCH low and writes no cell. -/
theorem resetStopsAnOperationBetweenEvents : Obligations.ResetStopsAnOperationBetweenEvents := by
  intro s f b k rest i ht hd hpin hphase hok
  have hstep := step_codeThenReset ht hd hpin hphase
  have hok' : ({ s with turns := rest } : State).answersOk k := hok
  have hshiftout (o : Order) := State.acceptAll_take_shiftoutPrims_keeps { s with turns := rest } s.w o (k := k)
  obtain ⟨-, hhost, -⟩ := State.acceptAll_frame { s with turns := rest } ((opEvents s i).take k)
  have hparams := State.acceptAll_params { s with turns := rest } ((opEvents s i).take k)
  rw [State.abandon_of_answersOk hok' i] at hstep
  intro u
  have hq : (u.resetWith (opAborts s.cfg k i)).q = u.qSettled := u.driveAll_resetDrives_q
  have hcells := u.resetWith_readCell (opAborts s.cfg k i)
  refine ⟨u.resetWith (opAborts s.cfg k i), hstep, rfl, rfl, rfl, rfl, rfl, rfl, rfl, rfl, rfl, hcells, hq,
    fun haborts => ?_, ?_, hhost.trans (u.resetWith_sameHost _)⟩
  · rw [State.resetWith_sr, haborts, u.srAfterReset_false, u.driveAll_resetDrives_sr, hparams]
  · rintro o rfl h1 h25
    obtain ⟨hq', hcells'⟩ := hshiftout o h1 h25
    exact ⟨hq.trans hq', fun hw c => (hcells c).trans (hcells' hw c)⟩

end Sys2Proof.Machine
end

section
/-! SUPPORT. WRPULSE and GAP with their events accepted (44_write_sequencer.md R96, R97): the fall of `WE_n` commits the
outputs into the addressed cell, the wait holds them there, and the rise changes no cell (20_memory.md R38). -/

namespace Sys2Proof.Machine

/-! ### The outputs under events on neither CLK nor LATCH (20_memory.md R37) -/

/-- Such an event leaves `Q` as an event that changes no line. -/
theorem State.accept_q_of_quiet (s : State) {e : Prim} (he : e.offClock = true ∧ e.offLatch = true) :
    (s.accept e).q = s.qSettled := by
  cases e with
  | set p v => exact s.qAfter_eq_qSettled p v (.inr ⟨of_decide_eq_true he.1, of_decide_eq_true he.2⟩)
  | wait d => rfl

theorem State.acceptAll_q_of_quiet (s : State) {es : List Prim}
    (hes : ∀ e ∈ es, e.offClock = true ∧ e.offLatch = true) (hne : es ≠ []) : (s.acceptAll es).q = s.qSettled := by
  induction es generalizing s with
  | nil => exact absurd rfl hne
  | cons e rest ih =>
    obtain ⟨he, hrest⟩ := List.forall_mem_cons.1 hes
    have hfirst := s.accept_q_of_quiet he
    cases rest with
    | nil => exact hfirst
    | cons =>
      have hsettled := (s.accept e).qSettled_of_outputsFollow (s.accept_outputsFollow e)
      exact (ih (s.accept e) hrest nofun).trans (hsettled.trans hfirst)

/-! ### WRPULSE -/

theorem wrpulsePrims_quiet : ∀ e ∈ wrpulsePrims, e.offClock = true ∧ e.offLatch = true := by decide

theorem wrpulsePrims_leastMs (c : Cfg) : (wrpulsePrims.map (Prim.leastMs c)).sum = c.tWe.toNat := by
  simp [wrpulsePrims, Prim.leastMs, Cfg.delay]

/-- The rise of `WE_n` commits nothing. -/
theorem State.acceptAll_wrpulsePrims_readCell (s : State) (b : Nat) :
    (s.acceptAll wrpulsePrims).readCell b = (s.acceptAll [.set .weN false, .wait .tWe]).readCell b :=
  (s.acceptAll [.set .weN false, .wait .tWe]).drive_readCell_of_weN .weN true rfl b

/-- Before it, while `WE_n` is 0, the outputs are committed into the addressed cell and into no other. -/
theorem State.acceptAll_weN_low_commits (s : State) :
    (s.acceptAll [.set .weN false, .wait .tWe]).readCell s.cell = some s.qSettled
      ∧ SameCellsBut s.cell s (s.acceptAll [.set .weN false, .wait .tWe]) := by
  have hq := s.acceptAll_q_of_quiet (es := [.set .weN false, .wait .tWe]) (by decide) nofun
  have hcell : (s.accept (.set .weN false)).cell = s.cell := s.drive_cell .weN false (.inr rfl)
  have hfall (b : Nat) (hb : b ≠ s.cell) : (s.accept (.set .weN false)).readCell b = s.readCell b :=
    s.drive_readCell_other .weN false b hb (hcell ▸ hb)
  obtain ⟨-, -, ⟨hothers, -, hcommit⟩, -⟩ := (s.accept (.set .weN false)).accept_wait_settlesTarget .tWe
  rw [hcell] at hothers hcommit
  exact ⟨hq ▸ hcommit rfl, fun b hb => (hothers b hb).trans (hfall b hb)⟩

/-- Settles O33: the events commit the outputs while `WE_n` is 0, and drive neither CLK nor LATCH. -/
theorem wrpulseCommitsTheByte : Obligations.WrpulseCommitsTheByte := by
  intro s hok
  obtain ⟨hregs, hhost, htrace, -⟩ := s.acceptAll_frame wrpulsePrims
  obtain ⟨hcommit, hothers⟩ := s.acceptAll_weN_low_commits
  have hcells := s.acceptAll_wrpulsePrims_readCell
  have hsr := s.acceptAll_sr_of_offClock fun e he => (wrpulsePrims_quiet e he).1
  have hq := s.acceptAll_q_of_quiet wrpulsePrims_quiet nofun
  have htime := s.time_le_acceptAll wrpulsePrims
  rw [wrpulsePrims_leastMs] at htime
  refine ⟨_, exec_of_answersOk rfl hok, rfl, hsr, hq, fun hout => hq.trans (s.qSettled_of_outputsFollow hout), ?_,
    fun b hb => (hcells b).trans (hothers b hb), htrace, htime, hregs, hhost⟩
  rw [hcells, hcommit, hq]

/-! ### GAP -/

/-- Settles O34: the one event is a WAIT, which drives no line, so the target settles. -/
theorem gapWaits : Obligations.GapWaits := by
  intro s hok
  obtain ⟨hregs, hhost, htrace, -⟩ := s.acceptAll_frame gapPrims
  exact ⟨_, exec_of_answersOk rfl hok, s.time_le_accept_wait .tGap, htrace, rfl, s.accept_wait_settlesTarget .tGap,
    hregs, hhost⟩

end Sys2Proof.Machine
end

section
/-! SUPPORT. The event list by position (45_load_sequencer.md R98): the events of ADDRSEL, and after them the same
events at the same distance for every address. -/

namespace Sys2Proof.Machine

theorem exists_event_of_lt {j : Nat} {c : Cfg} (hj : j < c.eventCount) (a : Nibble) (w : Byte) :
    ∃ e, (eventList a w c)[j]? = some e :=
  ⟨_, List.getElem?_eq_getElem (hj.trans_eq (eventList_length a w c).symm)⟩

/-- The events of an address after those of ADDRSEL. -/
def afterAddrsel (w : Byte) (o : Order) : List Prim := shiftoutPrims w o ++ wrpulsePrims ++ gapPrims

theorem eventList_eq (a : Nibble) (w : Byte) (c : Cfg) :
    eventList a w c = addrselPrims a c ++ afterAddrsel w c.order := by
  simp only [eventList, afterAddrsel, List.append_assoc]

theorem eventList_getElem?_addrsel (a : Nibble) (w : Byte) (c : Cfg) {i : Nat} (h : i < 4 + c.offset) :
    (eventList a w c)[i]? = (addrselPrims a c)[i]? := by
  rw [eventList_eq, List.getElem?_append_left (by rwa [addrselPrims_length])]

theorem eventList_getElem?_after (a : Nibble) (w : Byte) (c : Cfg) (i : Nat) :
    (eventList a w c)[4 + c.offset + i]? = (afterAddrsel w c.order)[i]? := by
  rw [eventList_eq, List.getElem?_append_right (by simp), addrselPrims_length, Nat.add_sub_cancel_left]

theorem addrselPrims_wait (a : Nibble) {c : Cfg} (h : c.offset = 1) : (addrselPrims a c)[4]? = some (.wait .tAddr) := by
  have hc : c.tAddr ≠ 0 := fun hc => by simp [Cfg.offset, hc] at h
  rw [addrselPrims, if_neg hc]
  rfl

/-- Bit `k` of the frame is shifted in by the three events of its SHBIT. -/
theorem afterAddrsel_shbit (w : Byte) (o : Order) {k : Nat} (hk : k < 8) :
    (afterAddrsel w o)[1 + 3 * k]? = some (.set .data ((frame w o).getD k false))
      ∧ (afterAddrsel w o)[2 + 3 * k]? = some (.set .clk true)
      ∧ (afterAddrsel w o)[3 + 3 * k]? = some (.set .clk false) := by
  cases o <;> interval_cases k <;> exact ⟨rfl, rfl, rfl⟩

/-- After the bits come the events of LATCH, WRPULSE and GAP. -/
theorem afterAddrsel_drop (w : Byte) (o : Order) :
    (afterAddrsel w o).drop 25 = latchPrims ++ wrpulsePrims ++ gapPrims := by
  cases o <;> rfl

/-- Settles O35: past the events of ADDRSEL, each event stands at its distance whatever the address and the offset. -/
theorem eventListIsTheTable : Obligations.EventListIsTheTable := by
  intro a w c
  have hat {i j : Nat} (h : j = 4 + c.offset + i) : (eventList a w c)[j]? = (afterAddrsel w c.order)[i]? :=
    h ▸ eventList_getElem?_after a w c i
  have haddr (i : Nat) (h : i < 4) : (eventList a w c)[i]? = some (.set (addressLine i) (a.getLsbD i)) := by
    rw [eventList_getElem?_addrsel a w c (by omega), addrselPrims_getElem? a c i h]
  have hlate (i : Nat) {j : Nat} (h : j = 29 + c.offset + i) :
      (eventList a w c)[j]? = (latchPrims ++ wrpulsePrims ++ gapPrims)[i]? := by
    rw [← afterAddrsel_drop w c.order, List.getElem?_drop]
    exact hat (by omega)
  intro o e
  have ho : o = c.offset := rfl
  refine ⟨eventList_length a w c, haddr 0 (by omega), haddr 1 (by omega), haddr 2 (by omega), haddr 3 (by omega),
    fun h1 => ?_, hat (i := 0) (by omega), fun k hk => ?_,
    hlate 0 (by omega), hlate 1 (by omega), hlate 2 (by omega), hlate 3 (by omega), hlate 4 (by omega),
    hlate 5 (by omega), hlate 6 (by omega)⟩
  · rw [eventList_getElem?_addrsel a w c (by omega), addrselPrims_wait a h1]
  · obtain ⟨hdata, hrise, hfall⟩ := afterAddrsel_shbit w c.order hk
    refine ⟨(hat (i := 1 + 3 * k) (by omega)).trans (hdata.trans ?_), (hat (by omega)).trans hrise,
      (hat (by omega)).trans hfall⟩
    cases c.order with
    | lsbFirst => rw [frame_lsbFirst_getD w k hk]
    | msbFirst => rw [frame_msbFirst_getD w k hk]

end Sys2Proof.Machine
end

section
/-! SUPPORT. The kinds of events by position (45_load_sequencer.md R98), and the control lines they leave: the fit of
the lines to the position is kept by the event at that position (70_reset_and_hazards.md R135, R136, R137). -/

namespace Sys2Proof.Machine

/-! ### The kinds of events -/

/-- The event at index `j` of an event list with offset `o`, but for the address, the bits of the word and the delay of
ADDRSEL. -/
inductive EventAt (o : Nat) : Nat → Prim → Prop where
  | address {j : Nat} {e : Prim} (hj : j < 4 + o) (he : e.onAddressLines = true) : EventAt o j e
  | freeze : EventAt o (4 + o) (.set .latch false)
  | data {k : Nat} (hk : k < 8) (b : Bool) : EventAt o (5 + o + 3 * k) (.set .data b)
  | clockRise {k : Nat} (hk : k < 8) : EventAt o (6 + o + 3 * k) (.set .clk true)
  | clockFall {k : Nat} (hk : k < 8) : EventAt o (7 + o + 3 * k) (.set .clk false)
  | latchRise : EventAt o (29 + o) (.set .latch true)
  | latchHold : EventAt o (30 + o) (.wait .tLatch)
  | latchFall : EventAt o (31 + o) (.set .latch false)
  | writeBegin : EventAt o (32 + o) (.set .weN false)
  | writeHold : EventAt o (33 + o) (.wait .tWe)
  | writeEnd : EventAt o (34 + o) (.set .weN true)
  | gap : EventAt o (35 + o) (.wait .tGap)

/-- The positions of an event list, by the kind of the event there. -/
theorem position_cases {o j : Nat} (hj : j < 36 + o) :
    j < 4 + o ∨ j = 4 + o ∨ (∃ k < 8, j = 5 + o + 3 * k ∨ j = 6 + o + 3 * k ∨ j = 7 + o + 3 * k) ∨ j = 29 + o
      ∨ j = 30 + o ∨ j = 31 + o ∨ j = 32 + o ∨ j = 33 + o ∨ j = 34 + o ∨ j = 35 + o := by
  by_cases hshift : 5 + o ≤ j ∧ j < 29 + o
  · exact .inr (.inr (.inl ⟨(j - (5 + o)) / 3, by omega, by omega⟩))
  · omega

/-- The table of the event list, read by position. -/
theorem eventAt_of_getElem? {a : Nibble} {w : Byte} {c : Cfg} {j : Nat} {e : Prim}
    (he : (eventList a w c)[j]? = some e) : EventAt c.offset j e := by
  have hj : j < 36 + c.offset := (List.getElem?_eq_some_iff.1 he).1.trans_eq (eventList_length a w c)
  have heq {x : Prim} (hx : (eventList a w c)[j]? = some x) : e = x := Option.some.inj (he.symm.trans hx)
  obtain ⟨-, -, -, -, -, -, hfreeze, hshift, hrise, hhold, hfall, hbegin, hwrite, hend, hgap⟩ :=
    eventListIsTheTable a w c
  rcases position_cases hj with hj | rfl | ⟨k, hk, hj⟩ | rfl | rfl | rfl | rfl | rfl | rfl | rfl
  · rw [eventList_getElem?_addrsel a w c hj] at he
    exact .address hj (addrselPrims_onAddressLines a c e (List.mem_of_getElem? he))
  · exact heq hfreeze ▸ .freeze
  · obtain ⟨hdata, hup, hdown⟩ := hshift k hk
    rcases hj with rfl | rfl | rfl
    · exact heq hdata ▸ .data hk _
    · exact heq hup ▸ .clockRise hk
    · exact heq hdown ▸ .clockFall hk
  · exact heq hrise ▸ .latchRise
  · exact heq hhold ▸ .latchHold
  · exact heq hfall ▸ .latchFall
  · exact heq hbegin ▸ .writeBegin
  · exact heq hwrite ▸ .writeHold
  · exact heq hend ▸ .writeEnd
  · exact heq hgap ▸ .gap

/-! ### The lines after an event -/

/-- The lines an accepted event leaves (41_io_primitives.md R86, R87). -/
def Lines.after (l : Lines) : Prim → Lines
  | .set p v => l.set p v
  | .wait _ => l

@[simp] theorem State.accept_lines (s : State) (e : Prim) : (s.accept e).lines = s.lines.after e := by
  cases e <;> rfl

/-- An event on the address lines leaves the control lines. -/
theorem Lines.after_address (l : Lines) {e : Prim} (he : e.onAddressLines = true) :
    (l.after e).weN = l.weN ∧ (l.after e).latch = l.latch ∧ (l.after e).clk = l.clk := by
  cases e with
  | set p v =>
    cases p with
    | a0 | a1 | a2 | a3 => exact ⟨rfl, rfl, rfl⟩
    | data | clk | latch | weN => cases he
  | wait d => exact ⟨rfl, rfl, rfl⟩

/-! ### The fit of the lines to a position -/

/-- `LinesFit` of the lines and the position alone. -/
structure FitsAt (l : Lines) (o j : Nat) : Prop where
  writeEnable : l.weN = true ↔ ¬(j = 33 + o ∨ j = 34 + o)
  latch : 5 + o ≤ j → (l.latch = true ↔ j = 30 + o ∨ j = 31 + o)
  clock : l.clk = true ↔ 7 + o ≤ j ∧ j ≤ 28 + o ∧ (j - (7 + o)) % 3 = 0

theorem linesFit_iff (s : State) : LinesFit s ↔ FitsAt s.lines s.cfg.offset s.j.toNat := by
  constructor
  · rintro ⟨hw, hl, hc⟩
    exact ⟨by simp [hw], fun hj => by simp [hl hj], by simp [hc]⟩
  · rintro ⟨hw, hl, hc⟩
    refine ⟨?_, fun hj => ?_, ?_⟩ <;> rw [Bool.eq_iff_iff]
    · simpa using hw
    · simpa using hl hj
    · simpa using hc

/-- The event at a position leaves the lines fitting the next one. -/
theorem FitsAt.after {l : Lines} {o j : Nat} {e : Prim} (h : FitsAt l o j) (he : EventAt o j e) :
    FitsAt (l.after e) o (j + 1) := by
  obtain ⟨hw, hl, hc⟩ := h
  cases he with
  | address hj he =>
    obtain ⟨hw', -, hc'⟩ := l.after_address he
    rw [← hw'] at hw
    rw [← hc'] at hc
    exact ⟨hw.trans (by omega), by omega, hc.trans (by omega)⟩
  | freeze => exact ⟨hw.trans (by omega), fun _ => iff_of_false nofun (by omega), hc.trans (by omega)⟩
  | data => exact ⟨hw.trans (by omega), fun _ => (hl (by omega)).trans (by omega), hc.trans (by omega)⟩
  | clockRise =>
    exact ⟨hw.trans (by omega), fun _ => (hl (by omega)).trans (by omega), iff_of_true rfl (by omega)⟩
  | clockFall =>
    exact ⟨hw.trans (by omega), fun _ => (hl (by omega)).trans (by omega), iff_of_false nofun (by omega)⟩
  | latchRise => exact ⟨hw.trans (by omega), fun _ => iff_of_true rfl (by omega), hc.trans (by omega)⟩
  | latchHold | writeHold | gap =>
    exact ⟨hw.trans (by omega), fun _ => (hl (by omega)).trans (by omega), hc.trans (by omega)⟩
  | latchFall => exact ⟨hw.trans (by omega), fun _ => iff_of_false nofun (by omega), hc.trans (by omega)⟩
  | writeBegin =>
    exact ⟨iff_of_false nofun (by omega), fun _ => (hl (by omega)).trans (by omega), hc.trans (by omega)⟩
  | writeEnd =>
    exact ⟨iff_of_true rfl (by omega), fun _ => (hl (by omega)).trans (by omega), hc.trans (by omega)⟩

/-- Past its last event an address leaves the lines fitting the start of the next. -/
theorem FitsAt.wrap {l : Lines} {o : Nat} (h : FitsAt l o (36 + o)) : FitsAt l o 0 := by
  obtain ⟨hw, -, hc⟩ := h
  exact ⟨hw.trans (by omega), by omega, hc.trans (by omega)⟩

/-! ### The step -/

/-- The fit reads the lines, `CFG` and `J` alone. -/
theorem LinesFit.congr {s t : State} (h : LinesFit s) (hlines : t.lines = s.lines) (hcfg : t.cfg = s.cfg)
    (hj : t.j = s.j) : LinesFit t := by
  rw [linesFit_iff, hlines, hcfg, hj]
  exact (linesFit_iff s).1 h

/-- The position after an event fits the lines that fit the next index of the list (45_load_sequencer.md R103). -/
theorem linesFit_advance {s : State} (hj : s.j.toNat < s.cfg.eventCount)
    (h : FitsAt s.lines s.cfg.offset (s.j.toNat + 1)) : LinesFit s.advance := by
  have hle := s.cfg.eventCount_le
  rw [linesFit_iff]
  rcases s.advance_cases with ⟨-, heq⟩ | ⟨hlast, -, heq⟩ | ⟨hlast, -, heq⟩ <;> rw [heq]
  · have hnext : (s.j + 1).toNat = s.j.toNat + 1 := by bv_omega
    exact hnext ▸ h
  · rw [hlast] at h
    exact h.wrap
  · rw [hlast] at h
    exact h.wrap

/-- A step of the sequencer that ends in no fault keeps the fit. -/
theorem sequencerStep_linesFit {s t : State} (hfit : LinesFit s) (hx : sequencerStep s = .next t)
    (hphase : t.phase ≠ .fault) : LinesFit t := by
  rcases sequencerStep_cases hx with ⟨-, rfl⟩ | ⟨-, -, hj, e, he, rfl | ⟨landed, hreject⟩⟩
  · exact hfit
  · have hafter := ((linesFit_iff s).1 hfit).after (eventAt_of_getElem? he)
    obtain ⟨⟨-, -, hj', -, -, hcfg, -⟩, -⟩ := s.beginEvent.accept_frame e
    rw [s.beginEvent_eq] at hj' hcfg ⊢
    refine linesFit_advance ?_ ?_ <;> rw [hj', hcfg]
    · exact hj
    · rwa [State.accept_lines]
  · obtain ⟨⟨hfault, -⟩, -⟩ := s.beginEvent.reject_frame landed e
    rcases hreject with rfl | rfl <;> exact absurd hfault hphase

/-- An instruction that does not use the pin path leaves the machine in RUN as it is but for the host's side, or it is
RESET (60_exceptions.md R119, R123). -/
theorem execState_offPinPath {s : State} {i : Instr} (hi : usesPinPath i = false) (hrun : s.phase = .run) :
    (∃ asm reply, execState i s = { s with asm := asm, reply := reply }) ∨ execState i s = s.resetBlock := by
  cases i with
  | nop | lda | add | sub | sta | ldi | jmp | jc | jz | out | hlt | literal | readStatus => exact .inl ⟨_, _, rfl⟩
  | load o => exact .inl ⟨s.asm, some .busy, by simp [execState, exec, execLoad, hrun, State.answerHost]⟩
  | reset => exact .inr rfl
  | setpin | wait | addrsel | shbegin | shbit | latch | wrpulse | gap | shiftout | loadword => cases hi

/-- Settles O55: the sequencer's event fits its position, and a turn of the host drives no line while a load runs. -/
theorem loadKeepsTheLinesFitting : Obligations.LoadKeepsTheLinesFitting := by
  intro s t hrun hfit hstep hrun'
  have hfault : t.phase ≠ .fault := by simp [hrun']
  have hrest (rest : List Turn) : LinesFit { s with turns := rest } := hfit.congr rfl rfl rfl
  have hexec {rest : List Turn} {i : Instr} (hi : usesPinPath i = false)
      (hx : exec i { s with turns := rest } = .next t) : LinesFit t := by
    rw [exec_next] at hx
    obtain rfl := Host.Outcome.next.inj hx
    rcases execState_offPinPath (s := { s with turns := rest }) hi hrun with ⟨asm, reply, h⟩ | h <;> rw [h] at hrun' ⊢
    · exact hfit.congr rfl rfl rfl
    · cases hrun'
  rcases step_cases hstep with ⟨-, hx⟩ | ⟨turn, rest, -, hturn⟩
  · exact sequencerStep_linesFit hfit hx hfault
  · rcases hturn with ⟨-, hx⟩ | ⟨f, b, i, -, -, hfree, hx⟩ | ⟨f, b, k, i, -, -, -, hx⟩ | ⟨text, i, -, hparse, hx⟩
      | ⟨asm, offer, rfl⟩
    · exact sequencerStep_linesFit (hrest rest) hx hfault
    · exact hexec (Bool.eq_false_iff.2 fun hpin => hfree ⟨hrun, hpin⟩) hx
    · rw [execThenReset_next] at hx
      obtain rfl := Host.Outcome.next.inj hx
      split at hrun' <;> cases hrun'
    · obtain ⟨e, he⟩ := parseLine_entry _ _ _ _ s.params.hexCase hparse
      rw [exec_payload i { s with turns := rest } e he] at hx
      obtain rfl := Host.Outcome.next.inj hx
      exact hfit.congr rfl rfl rfl
    · exact hfit.congr rfl rfl rfl

end Sys2Proof.Machine
end

section
/-! SUPPORT. The events of an address performed one after another (45_load_sequencer.md R98, R107), and LOADWORD by its
code, performed to its end or stopped at a rejected event (R99). -/

namespace Sys2Proof.Machine

/-! ### The events of an address, all accepted -/

theorem eventList_leastMs (a : Nibble) (w : Byte) (c : Cfg) :
    ((eventList a w c).map (Prim.leastMs c)).sum
      = c.tAddr.toNat + c.tLatch.toNat + c.tWe.toNat + c.tGap.toNat := by
  have hgap : (gapPrims.map (Prim.leastMs c)).sum = c.tGap.toNat := Nat.add_zero _
  simp only [eventList, List.map_append, List.sum_append, addrselPrims_leastMs, shiftoutPrims_leastMs,
    wrpulsePrims_leastMs, hgap]

/-- The lines end idle at the address, with DATA at the last bit of the frame (R107). -/
theorem State.acceptAll_eventList_lines (s : State) (a : Nibble) (w : Byte) (c : Cfg) :
    (s.acceptAll (eventList a w c)).lines
      = ⟨a[0], a[1], a[2], a[3], (frame w c.order).getLastD false, false, false, true⟩ := by
  have hafter (t : State) : (t.acceptAll (wrpulsePrims ++ gapPrims)).lines = { t.lines with weN := true } := rfl
  rw [eventList, List.append_assoc, State.acceptAll_append, hafter, State.acceptAll_append,
    State.acceptAll_shiftoutPrims_lines, State.acceptAll_addrselPrims_lines]

theorem State.acceptAll_shiftoutPrims_holdsWord {s : State} (h : s.shiftsEight) (w : Byte) (o : Order) :
    (s.acceptAll (shiftoutPrims w o)).holdsWord (deliver o s.params.firstBit w) := by
  have hall := State.acceptAll_take_shiftoutPrims_holdsWord h w o (k := 28) (by omega)
  rwa [List.take_of_length_le (shiftoutPrims_length w o).le] at hall

/-- Cell `a` and the target's registers hold the word, and every other cell reads as before. -/
structure ProgramsCell (s t : State) (a : Nat) (v : Byte) : Prop where
  word : t.holdsWord v
  cell : t.readCell a = some v
  others : SameCellsBut a s t

/-- WRPULSE and GAP commit the word the target holds into the addressed cell (44_write_sequencer.md R96). -/
theorem State.acceptAll_write_programsCell {s : State} {v : Byte} (h : s.holdsWord v) (hlow : s.lines.latch = false) :
    ProgramsCell s (s.acceptAll (wrpulsePrims ++ gapPrims)) s.cell v := by
  obtain ⟨hcommit, hothers⟩ := s.acceptAll_weN_low_commits
  have hgap := (s.acceptAll wrpulsePrims).accept_commitsInPlace (e := .wait .tGap) rfl
  have hcells (b : Nat) : (s.acceptAll (wrpulsePrims ++ gapPrims)).readCell b
      = (s.acceptAll [.set .weN false, .wait .tWe]).readCell b := by
    rw [State.acceptAll_append, ← s.acceptAll_wrpulsePrims_readCell]
    exact hgap.readCell rfl b
  refine ⟨h.acceptAll (by decide), ?_, fun b hb => (hcells b).trans (hothers b hb)⟩
  rw [hcells, hcommit, s.qSettled_of_latch_low hlow, h.2]

/-- The target before WRPULSE: it holds the word, LATCH is low, the address is presented, and no cell has changed. -/
structure PresentsWord (s t : State) (a : Nat) (v : Byte) : Prop where
  word : t.holdsWord v
  latch : t.lines.latch = false
  cell : t.cell = a
  cells : ∀ b, t.readCell b = s.readCell b

section

variable {s : State} (hw : s.lines.weN = true) (hshifts : s.shiftsEight) (a : Nibble) (w : Byte) (c : Cfg)

include hw hshifts

theorem State.acceptAll_presentsWord :
    PresentsWord s (s.acceptAll (addrselPrims a c ++ shiftoutPrims w c.order)) a.toNat
      (deliver c.order s.params.firstBit w) := by
  have haddr := s.acceptAll_keepsSettledTarget (addrselPrims_onAddressLines a c)
  have hlines := s.acceptAll_addrselPrims_lines a c
  have hready : (s.acceptAll (addrselPrims a c)).shiftsEight := by
    rwa [State.shiftsEight, hlines, State.acceptAll_params]
  have hword := State.acceptAll_shiftoutPrims_holdsWord hready w c.order
  have hplace := (s.acceptAll (addrselPrims a c)).acceptAll_commitsInPlace (shiftoutPrims_onShiftLines w c.order)
    (by simp [shiftoutPrims_eq, shiftPrims])
  rw [State.acceptAll_params] at hword
  rw [State.acceptAll_append]
  refine ⟨hword, by rw [State.acceptAll_shiftoutPrims_lines], ?_, fun b => ?_⟩
  · rw [hplace.cell, State.cell, hlines, Lines.address_of_bits]
  · exact (hplace.readCell (haddr.weN.trans hw) b).trans (haddr.cells hw b)

/-- With the write enable inactive and the clock ready at the start, the events program the cell and no other (R107). -/
theorem State.acceptAll_eventList_programsCell :
    ProgramsCell s (s.acceptAll (eventList a w c)) a.toNat (deliver c.order s.params.firstBit w) := by
  obtain ⟨hword, hlow, hcell, hkeep⟩ := State.acceptAll_presentsWord hw hshifts a w c
  have hwrite := State.acceptAll_write_programsCell hword hlow
  rw [hcell, ← State.acceptAll_append, ← List.append_assoc] at hwrite
  exact ⟨hwrite.word, hwrite.cell, fun b hb => (hwrite.others b hb).trans (hkeep b)⟩

end

/-! ### LOADWORD performed to its end -/

theorem exec_loadword (a : Nibble) (s : State) :
    exec (.loadword a) s
      = .next (afterLoadword a s ((s.fetchWord a).runPrims 0 (eventList a (imgRead s.img a) s.cfg))) := rfl

theorem Phase.keepsJ_iff (p : Phase) : p.keepsJ = true ↔ p = .done ∨ p = .fault := by
  cases p <;> simp [Phase.keepsJ]

/-- After its last event LOADWORD touches `J` alone (log 12). -/
theorem exec_loadword_of_answersOk {a : Nibble} {s : State} (h : s.answersOk s.cfg.eventCount) :
    exec (.loadword a) s
      = .next { (s.fetchWord a).acceptAll (eventList a (imgRead s.img a) s.cfg) with
          j := if s.phase.keepsJ = true then s.j else BitVec.ofNat 6 (s.cfg.eventCount - 1) } := by
  have hok : (s.fetchWord a).answersOk (eventList a (imgRead s.img a) s.cfg).length := by
    rw [eventList_length]
    exact h
  obtain ⟨⟨-, -, hj, -⟩, -⟩ := (s.fetchWord a).acceptAll_frame (eventList a (imgRead s.img a) s.cfg)
  rw [exec_loadword, State.runPrims_ok _ 0 _ hok]
  simp only [afterLoadword]
  split
  · exact congrArg Host.Outcome.next (by rw [← s.fetchWord_j a, ← hj])
  · rfl

/-- Settles O36: the word is fetched, the events leave the registers, and `J` is the phase's affair. -/
theorem loadwordPerformsItsEventList : Obligations.LoadwordPerformsItsEventList := by
  intro a s hok
  obtain ⟨⟨hphase, haCnt, -, hw, hcode, hcfg, himg⟩, hhost, htrace, -⟩ :=
    (s.fetchWord a).acceptAll_frame (eventList a (imgRead s.img a) s.cfg)
  have htime := (s.fetchWord a).time_le_acceptAll (eventList a (imgRead s.img a) s.cfg)
  rw [State.fetchWord_cfg, eventList_leastMs] at htime
  refine ⟨_, exec_loadword_of_answersOk hok, hw, fun hp => ?_, fun hdone hfault => ?_, hphase, haCnt, hcode, hcfg, himg,
    htrace, htime, hhost⟩
  · exact if_pos ((Phase.keepsJ_iff _).2 hp)
  · have hle := s.cfg.eventCount_le
    have hkeeps : ¬s.phase.keepsJ = true := mt (Phase.keepsJ_iff _).1 (not_or.2 ⟨hdone, hfault⟩)
    rw [if_neg hkeeps, BitVec.toNat_ofNat]
    omega

/-- Settles O37: LOADWORD's target and lines are those its events leave. -/
theorem loadwordProgramsItsCell : Obligations.LoadwordProgramsItsCell := by
  intro a s hok hw hshifts
  obtain ⟨⟨hsr, hq⟩, hcell, hothers⟩ := State.acceptAll_eventList_programsCell (s := s.fetchWord a) hw hshifts a
    (imgRead s.img a) s.cfg
  have hlines := (s.fetchWord a).acceptAll_eventList_lines a (imgRead s.img a) s.cfg
  have hexec := exec_loadword_of_answersOk (a := a) hok
  generalize (s.fetchWord a).acceptAll (eventList a (imgRead s.img a) s.cfg) = t at *
  refine ⟨_, hexec, hcell, hothers, hq, hsr.trans hq.symm, ?_⟩
  rw [hlines]
  exact ⟨Lines.address_of_bits Lines.reset a, rfl, rfl, rfl⟩

/-! ### LOADWORD stopped at a rejected event -/

/-- A stopped LOADWORD records its position unless a fault stands already, and may lose `SR` (R99, R121, R132). -/
theorem afterLoadword_stopped_frame (a : Nibble) (s t : State) (k : Nat) :
    ((afterLoadword a s (t, some k)).w = t.w ∧ (afterLoadword a s (t, some k)).cfg = t.cfg
      ∧ (afterLoadword a s (t, some k)).img = t.img ∧ (afterLoadword a s (t, some k)).trace = t.trace
      ∧ SameHost t (afterLoadword a s (t, some k)))
      ∧ (s.phase ≠ .fault → (afterLoadword a s (t, some k)).phase = .fault
        ∧ (afterLoadword a s (t, some k)).code = codeHardwareIOError
        ∧ (afterLoadword a s (t, some k)).aCnt = a.setWidth 5
        ∧ (afterLoadword a s (t, some k)).j = BitVec.ofNat 6 k)
      ∧ (s.phase = .fault → (afterLoadword a s (t, some k)).phase = t.phase
        ∧ (afterLoadword a s (t, some k)).code = t.code ∧ (afterLoadword a s (t, some k)).aCnt = t.aCnt
        ∧ (afterLoadword a s (t, some k)).j = t.j) := by
  simp only [afterLoadword, State.stopLoadword]
  split_ifs with haborts hfault hfault <;> simp [hfault, SameHost]

/-- The state of a LOADWORD of address `a` whose event `k`, which is `e`, was rejected. -/
def State.loadwordRejected (s : State) (a : Nibble) (k : Nat) (landed : Bool) (e : Prim) : State :=
  ((s.fetchWord a).acceptAll ((eventList a (imgRead s.img a) s.cfg).take k)).reject landed e

theorem State.loadwordRejected_frame (s : State) (a : Nibble) (k : Nat) (landed : Bool) (e : Prim) :
    FaultsHere s (s.loadwordRejected a k landed e) ∧ (s.loadwordRejected a k landed e).w = imgRead s.img a
      ∧ (s.loadwordRejected a k landed e).cfg = s.cfg ∧ (s.loadwordRejected a k landed e).img = s.img
      ∧ (s.loadwordRejected a k landed e).trace
        = s.trace ++ accepted s.cfg ((eventList a (imgRead s.img a) s.cfg).take k) ++ [⟨e.event s.cfg, false⟩]
      ∧ SameHost s (s.loadwordRejected a k landed e) := by
  rw [State.loadwordRejected]
  generalize (eventList a (imgRead s.img a) s.cfg).take k = es
  obtain ⟨hfault, htrace⟩ := (s.fetchWord a).acceptAll_reject_frame es landed e
  obtain ⟨⟨-, -, -, hw, -, hcfg, himg⟩, hhost, -⟩ := (s.fetchWord a).acceptAll_frame es
  obtain ⟨-, hw', hcfg', himg', hhost', -⟩ := ((s.fetchWord a).acceptAll es).reject_frame landed e
  exact ⟨hfault, hw'.trans hw, hcfg'.trans hcfg, himg'.trans himg, htrace, hhost.trans hhost'⟩

theorem exec_loadword_of_rejectsFirst {a : Nibble} {k : Nat} {landed : Bool} {s : State} {e : Prim}
    (h : s.rejectsFirst k landed) (he : (eventList a (imgRead s.img a) s.cfg)[k]? = some e) :
    exec (.loadword a) s = .next (afterLoadword a s (s.loadwordRejected a k landed e, some k)) := by
  rw [exec_loadword, State.runPrims_reject (s.fetchWord a) 0 k landed _ e h he, Nat.zero_add, State.loadwordRejected]

/-- Settles O38: the events before the rejected one leave the registers, and the stop records the position. -/
theorem rejectedLoadwordRecordsItsPosition : Obligations.RejectedLoadwordRecordsItsPosition := by
  intro a k landed s hk hrej
  obtain ⟨e, he⟩ := exists_event_of_lt hk a (imgRead s.img a)
  obtain ⟨⟨hphase, hcode, haCnt, hj⟩, hw, hcfg, himg, htrace, hhost⟩ := s.loadwordRejected_frame a k landed e
  obtain ⟨⟨hw', hcfg', himg', htrace', hhost'⟩, hnew, hold⟩ :=
    afterLoadword_stopped_frame a s (s.loadwordRejected a k landed e) k
  refine ⟨_, e, exec_loadword_of_rejectsFirst hrej he, he, ?_, hw'.trans hw, fun hne => ?_, fun hfault => ?_,
    hcfg'.trans hcfg, himg'.trans himg, htrace'.trans htrace, hhost.trans hhost'⟩
  · by_cases hfault : s.phase = .fault
    · exact (hold hfault).1.trans hphase
    · exact (hnew hfault).1
  · obtain ⟨-, hc, ha, hj'⟩ := hnew hne
    have hle := s.cfg.eventCount_le
    have ha4 := a.isLt
    refine ⟨hc, ?_, ?_⟩
    · rw [ha, BitVec.toNat_setWidth]
      omega
    · rw [hj', BitVec.toNat_ofNat]
      omega
  · obtain ⟨-, hc, ha, hj'⟩ := hold hfault
    exact ⟨hc.trans (hcode.trans (if_pos hfault)), ha.trans haCnt, hj'.trans hj⟩

end Sys2Proof.Machine
end

section
/-! SUPPORT. One step of the sequencer in RUN, with its event accepted or rejected (45_load_sequencer.md R102, R103,
60_exceptions.md R113, R115). -/

namespace Sys2Proof.Machine

/-! ### The event at the position -/

theorem step_of_no_turns {s : State} (ht : s.turns = []) : step s = sequencerStep s := by
  simp [step, ht]

theorem imgRead_eq_getD (img : Vector Byte 16) (a : Nibble) : imgRead img a = img.toList.getD a.toNat 0 := by
  have hlt : a.toNat < img.toList.length := by simpa using a.isLt
  rw [List.getD_eq_getElem _ _ hlt]
  rfl

theorem State.address_toNat {s : State} (h : s.aCnt.toNat < 16) : s.address.toNat = s.aCnt.toNat := by
  rw [State.address, BitVec.toNat_setWidth, Nat.mod_eq_of_lt h]

/-- At `J = 0` the word is the image's at `A_CNT` (R102). -/
theorem State.beginEvent_w {s : State} (h : s.aCnt.toNat < 16) :
    s.beginEvent.w = if s.j = 0 then s.img.toList.getD s.aCnt.toNat 0 else s.w := by
  rw [s.beginEvent_eq, imgRead_eq_getD, State.address_toNat h]

section

variable {s : State} (ht : s.turns = []) (hp : s.phase = .run) (ha : s.aCnt.toNat < 16)

include ht hp ha

theorem step_of_accepted {e : Prim} (he : (eventList s.address s.beginEvent.w s.cfg)[s.j.toNat]? = some e)
    (hok : s.answersOk 1) : step s = .next (s.beginEvent.accept e).advance := by
  have hanswer : s.beginEvent.answerAt 0 = .ok := by
    rw [s.beginEvent_eq]
    exact State.answersOk_head hok
  rw [step_of_no_turns ht, sequencerStep_run s e hp ha he, State.attempt_ok _ e hanswer]
  rfl

theorem step_of_rejected {e : Prim} {landed : Bool}
    (he : (eventList s.address s.beginEvent.w s.cfg)[s.j.toNat]? = some e) (hrej : s.rejectsFirst 0 landed) :
    step s = .next (afterSequencerEvent (s.beginEvent.reject landed e, false)) := by
  have hanswer : s.beginEvent.answerAt 0 = .fail landed := by
    rw [s.beginEvent_eq]
    exact hrej.2
  rw [step_of_no_turns ht, sequencerStep_run s e hp ha he, State.attempt_fail _ e landed hanswer]

end

/-! ### An accepted event (R102, R103) -/

/-- The address advance touches the position and the phase alone. -/
theorem State.advance_eq (s : State) :
    s.advance = { s with j := s.advance.j, aCnt := s.advance.aCnt, phase := s.advance.phase } := by
  rcases s.advance_cases with ⟨-, h⟩ | ⟨-, -, h⟩ | ⟨-, -, h⟩ <;> rw [h]

theorem State.advance_within {s : State} (h : s.j.toNat + 1 < s.cfg.eventCount) :
    s.advance = { s with j := s.j + 1 } := by
  rcases s.advance_cases with ⟨-, heq⟩ | ⟨hlast, -⟩ | ⟨hlast, -⟩
  · exact heq
  · omega
  · omega

/-- The start of the next address, or DONE after the last (R103). -/
def State.nextAddress (s : State) : State :=
  { s with j := 0, aCnt := s.aCnt + 1, phase := if s.aCnt.toNat + 1 = 16 then .done else s.phase }

theorem State.advance_last {s : State} (h : s.j.toNat + 1 = s.cfg.eventCount) : s.advance = s.nextAddress := by
  rw [State.nextAddress]
  rcases s.advance_cases with ⟨hne, -⟩ | ⟨-, hne, heq⟩ | ⟨-, hdone, heq⟩
  · exact absurd h hne
  · rw [heq, if_neg hne]
  · rw [heq, if_pos hdone]

/-- The position after an accepted event. -/
theorem State.advance_position {s : State} (hp : s.phase = .run) (ha : s.aCnt.toNat < 16) :
    (s.j.toNat + 1 < s.cfg.eventCount →
        s.advance.j.toNat = s.j.toNat + 1 ∧ s.advance.aCnt = s.aCnt ∧ s.advance.phase = .run)
      ∧ (s.j.toNat + 1 = s.cfg.eventCount →
        s.advance.j = 0 ∧ s.advance.aCnt.toNat = s.aCnt.toNat + 1
          ∧ s.advance.phase = if s.aCnt = 15 then .done else .run) := by
  have hle := s.cfg.eventCount_le
  refine ⟨fun h => ?_, fun h => ?_⟩
  · rw [State.advance_within h]
    refine ⟨?_, rfl, hp⟩
    show (s.j + 1).toNat = s.j.toNat + 1
    bv_omega
  · rw [State.advance_last h]
    have hlast : s.aCnt.toNat + 1 = 16 ↔ s.aCnt = 15 := by bv_omega
    refine ⟨rfl, ?_, by simp only [State.nextAddress, hp, hlast]⟩
    show (s.aCnt + 1).toNat = s.aCnt.toNat + 1
    bv_omega

/-- Settles O47: the event is performed as by itself, and the advance touches the position alone. -/
theorem sequencerPerformsOneEvent : Obligations.SequencerPerformsOneEvent := by
  intro s ht hp ha hj hok
  obtain ⟨e, he⟩ := exists_event_of_lt hj s.address s.beginEvent.w
  have hstep := step_of_accepted ht hp ha he hok
  have hw := State.beginEvent_w ha
  rw [s.beginEvent_eq] at he hstep hw
  generalize (if s.j = 0 then imgRead s.img s.address else s.w) = w at he hstep hw
  obtain ⟨⟨hphase, haCnt, hj', hw', hcode, hcfg, himg⟩, hhost, htrace, -⟩ :=
    State.accept_frame { s with w := w } e
  obtain ⟨hwithin, hlast⟩ := State.advance_position (s := ({ s with w := w } : State).accept e) (hphase.trans hp)
    (by rwa [haCnt])
  rw [hj', hcfg, haCnt] at hwithin hlast
  rw [State.advance_eq] at hstep
  refine ⟨_, e, hstep, hw'.trans hw, ?_, htrace, hwithin, hlast, ?_, ?_, hcode, hcfg, himg, hhost⟩
  · dsimp only
    rw [hw']
    exact he
  · rintro d rfl
    exact ⟨rfl, (State.accept_wait_settlesTarget { s with w := w } d).congr rfl rfl rfl,
      State.time_le_accept_wait { s with w := w } d⟩
  · rintro p v rfl
    exact ⟨rfl, rfl, rfl, rfl⟩

/-! ### A rejected event (R113, R115, R132) -/

/-- Losing the shift touches `SR` and the draws alone, and `SR` not where the outputs are released (log 11). -/
theorem afterSequencerEvent_rejected (t : State) :
    ∃ sr draws, afterSequencerEvent (t, false) = { t with sr := sr, draws := draws }
      ∧ (t.cfg.aborts t.j.toNat = false ∨ t.released → sr = t.sr) := by
  simp only [afterSequencerEvent]
  split
  · next haborts => exact ⟨_, _, rfl, fun h => if_pos (h.resolve_left (by simp [haborts]))⟩
  · exact ⟨t.sr, t.draws, rfl, fun _ => rfl⟩

/-- In FAULT the sequencer has no event (R115, R119). -/
theorem step_of_fault {s : State} (ht : s.turns = []) (hp : s.phase = .fault) : step s = .next s := by
  rw [step_of_no_turns ht, sequencerStep_wait s (by simp [hp])]

/-- Settles O48: the rejected event leaves lines and target as by itself, and the shift it aborts loses `SR` alone. -/
theorem sequencerStopsAtARejectedEvent : Obligations.SequencerStopsAtARejectedEvent := by
  intro landed s ht hp ha hj hrej
  obtain ⟨e, he⟩ := exists_event_of_lt hj s.address s.beginEvent.w
  have hstep := step_of_rejected ht hp ha he hrej
  have hw := State.beginEvent_w ha
  rw [s.beginEvent_eq] at he hstep hw
  generalize (if s.j = 0 then imgRead s.img s.address else s.w) = w at he hstep hw
  obtain ⟨⟨hphase, hcode, haCnt, hj'⟩, hw', hcfg, himg, hhost, htrace, -⟩ :=
    State.reject_frame { s with w := w } landed e
  obtain ⟨sr, draws, heq, hsr⟩ := afterSequencerEvent_rejected (({ s with w := w } : State).reject landed e)
  have hqlow := State.reject_q_of_latch_low { s with w := w } landed e
  rw [heq] at hstep
  rw [hcfg, hj'] at hsr
  have ⟨_, hturns, _⟩ := hhost
  refine ⟨_, e, hstep, hw'.trans hw, ?_, hphase, hcode.trans (if_neg (by simp [hp])), haCnt, hj', hcfg, himg, htrace,
    ?_, ?_, fun _ => hqlow, hhost, step_of_fault (hturns.trans ht) hphase⟩
  · dsimp only
    rw [hw']
    exact he
  · rintro d rfl
    obtain ⟨hlines, -, -, hm⟩ := State.reject_target { s with w := w } landed (.wait d)
    obtain ⟨hsr', hq, -, hsettled⟩ := State.reject_wait_settlesTarget { s with w := w } landed d
    exact ⟨hlines, hq, hm, fun h => (hsettled h).2, fun h => (hsr (.inl h)).trans hsr'⟩
  · rintro p v rfl
    obtain ⟨hlines, hsr', hq, hm⟩ := State.reject_set_target { s with w := w } p v landed
    exact ⟨_, s.levelLeft_cases p v landed, hlines, hq, hm, fun h => (hsr h).trans hsr'⟩

end Sys2Proof.Machine
end

section
/-! SUPPORT. A run of the sequencer over the events of one address, all accepted, from its event 0 to the start of the
next address (45_load_sequencer.md R102, R103). -/

namespace Sys2Proof.Machine

/-! ### Runs -/

theorem run_add {s t : State} {m : Nat} (n : Nat) (h : Host.Core.run core m s = .next t) :
    Host.Core.run core (m + n) s = Host.Core.run core n t := by
  induction m generalizing s with
  | zero =>
    obtain rfl : s = t := Host.Outcome.next.inj h
    rw [Nat.zero_add]
  | succ m ih =>
    cases hstep : step s with
    | next u =>
      rw [run_of_step m hstep] at h
      rw [Nat.add_right_comm, run_of_step (m + n) hstep, ih h]
    | fault | refused =>
      have hcore : core.step s = _ := hstep
      simp [Host.Core.run, hcore] at h

/-- A run a step longer. -/
theorem run_then_step {s t u : State} {m : Nat} (h : Host.Core.run core m s = .next t) (hstep : step t = .next u) :
    Host.Core.run core (m + 1) s = .next u :=
  (run_add 1 h).trans (run_of_step 0 hstep)

/-! ### Within an address -/

/-- The events of address `a` of the image (R98, R106). -/
def State.eventsOf (s : State) (a : Nat) : List Prim := eventList (BitVec.ofNat 4 a) (s.img.toList.getD a 0) s.cfg

theorem State.eventsOf_length (s : State) (a : Nat) : (s.eventsOf a).length = s.cfg.eventCount :=
  eventList_length _ _ _

/-- The sequencer stands at an address of the image and has read its word, with no turn of the host waiting. -/
structure InAddress (s : State) : Prop where
  turns : s.turns = []
  phase : s.phase = .run
  address : s.aCnt.toNat < 16
  word : s.w = s.img.toList.getD s.aCnt.toNat 0

theorem InAddress.beginEvent_eq {s : State} (h : InAddress s) : s.beginEvent = s := by
  obtain ⟨-, -, haddr, hword⟩ := h
  rw [State.beginEvent_eq, imgRead_eq_getD, State.address_toNat haddr, ← hword, ite_self]

theorem State.address_eq_ofNat {s : State} (h : s.aCnt.toNat < 16) : s.address = BitVec.ofNat 4 s.aCnt.toNat :=
  BitVec.eq_of_toNat_eq (by rw [State.address_toNat h, BitVec.toNat_ofNat, Nat.mod_eq_of_lt h])

/-- There a step performs the event at `J` and moves the position on (R102). -/
theorem InAddress.step_event {s : State} (h : InAddress s) {e : Prim}
    (he : (s.eventsOf s.aCnt.toNat)[s.j.toNat]? = some e) (hok : s.answersOk 1) :
    step s = .next (s.accept e).advance := by
  have hbegin := h.beginEvent_eq
  obtain ⟨hturns, hphase, haddr, hword⟩ := h
  rw [State.eventsOf, ← State.address_eq_ofNat haddr, ← hword] at he
  rw [step_of_accepted hturns hphase haddr (by rwa [hbegin]) hok, hbegin]

/-- The state after the first `n` events of the address, each accepted. -/
def State.afterEvents (s : State) (n : Nat) : State :=
  { s.acceptAll ((s.eventsOf s.aCnt.toNat).take n) with j := BitVec.ofNat 6 n }

@[simp] theorem State.afterEvents_aCnt (s : State) (n : Nat) : (s.afterEvents n).aCnt = s.aCnt :=
  have ⟨⟨_, haCnt, _⟩, _⟩ := s.acceptAll_frame ((s.eventsOf s.aCnt.toNat).take n)
  haCnt

@[simp] theorem State.afterEvents_cfg (s : State) (n : Nat) : (s.afterEvents n).cfg = s.cfg :=
  have ⟨⟨_, _, _, _, _, hcfg, _⟩, _⟩ := s.acceptAll_frame ((s.eventsOf s.aCnt.toNat).take n)
  hcfg

@[simp] theorem State.afterEvents_img (s : State) (n : Nat) : (s.afterEvents n).img = s.img :=
  have ⟨⟨_, _, _, _, _, _, himg⟩, _⟩ := s.acceptAll_frame ((s.eventsOf s.aCnt.toNat).take n)
  himg

@[simp] theorem State.afterEvents_eventsOf (s : State) (n a : Nat) : (s.afterEvents n).eventsOf a = s.eventsOf a := by
  simp [State.eventsOf]

theorem State.afterEvents_j {s : State} {n : Nat} (hn : n < s.cfg.eventCount) : (s.afterEvents n).j.toNat = n := by
  have hle := s.cfg.eventCount_le
  show (BitVec.ofNat 6 n).toNat = n
  rw [BitVec.toNat_ofNat]
  omega

theorem InAddress.afterEvents {s : State} (h : InAddress s) (n : Nat) : InAddress (s.afterEvents n) := by
  obtain ⟨hturns, hphase, haddr, hword⟩ := h
  obtain ⟨⟨hphase', -, -, hw, -⟩, ⟨-, hturns', -⟩, -⟩ := s.acceptAll_frame ((s.eventsOf s.aCnt.toNat).take n)
  refine ⟨hturns'.trans hturns, hphase'.trans hphase, by simpa using haddr, ?_⟩
  rw [State.afterEvents_img, State.afterEvents_aCnt]
  exact hw.trans hword

theorem State.answersOk_acceptAll {s : State} {es : List Prim} {n : Nat} (h : s.answersOk (es.length + n)) :
    (s.acceptAll es).answersOk n := by
  obtain ⟨-, -, -, hpath, hdraws⟩ := s.acceptAll_frame es
  intro k hk
  rw [State.answerAt_of_fields s _ k es.length hpath hdraws]
  exact h _ (by omega)

/-- One event more, the position apart. -/
theorem State.afterEvents_accept {s : State} {n : Nat} {e : Prim} (he : (s.eventsOf s.aCnt.toNat)[n]? = some e) :
    (s.afterEvents n).accept e = { s.afterEvents (n + 1) with j := BitVec.ofNat 6 n } := by
  simp only [State.afterEvents, List.take_add_one, he, State.acceptAll_append]
  cases e <;> rfl

/-- The step at event `n` of the address, after those before it. -/
theorem InAddress.step_afterEvents {s : State} (h : InAddress s) {n : Nat} (hn : n < s.cfg.eventCount)
    (hok : s.answersOk (n + 1)) :
    step (s.afterEvents n) = .next ({ s.afterEvents (n + 1) with j := BitVec.ofNat 6 n } : State).advance := by
  obtain ⟨e, he⟩ : ∃ e, (s.eventsOf s.aCnt.toNat)[n]? = some e := exists_event_of_lt hn _ _
  have hok' : (s.acceptAll ((s.eventsOf s.aCnt.toNat).take n)).answersOk 1 := by
    refine State.answersOk_acceptAll (hok.mono ?_)
    rw [List.length_take, State.eventsOf_length]
    omega
  rw [(h.afterEvents n).step_event (e := e) ?_ hok', State.afterEvents_accept he]
  rwa [State.afterEvents_eventsOf, State.afterEvents_aCnt, State.afterEvents_j hn]

/-- The first `n` steps of an address perform its first `n` events. -/
theorem InAddress.run_events {s : State} (h : InAddress s) (hj : s.j = 0) {n : Nat} (hn : n < s.cfg.eventCount)
    (hok : s.answersOk n) : Host.Core.run core n s = .next (s.afterEvents n) := by
  induction n with
  | zero =>
    have hstart : s.afterEvents 0 = s := by
      show { s with j := 0 } = s
      rw [← hj]
    rw [hstart]
    rfl
  | succ n ih =>
    have hn' : n < s.cfg.eventCount := by omega
    refine run_then_step (ih hn' (hok.mono n.le_succ)) ?_
    have hj' : (BitVec.ofNat 6 n).toNat = n := State.afterEvents_j hn'
    have hnext : BitVec.ofNat 6 n + 1 = BitVec.ofNat 6 (n + 1) := (BitVec.ofNat_add n 1).symm
    rw [h.step_afterEvents hn' hok, State.advance_within (by simpa [hj'] using hn), hnext]
    rfl

/-- All its steps perform all its events and end at the next address, or in DONE. -/
theorem InAddress.run_address {s : State} (h : InAddress s) (hj : s.j = 0) (hok : s.answersOk s.cfg.eventCount) :
    Host.Core.run core s.cfg.eventCount s = .next (s.acceptAll (s.eventsOf s.aCnt.toNat)).nextAddress := by
  obtain ⟨n, hn⟩ := Nat.exists_eq_add_of_le' s.cfg.eventCount_pos
  have hlt : n < s.cfg.eventCount := by omega
  rw [hn]
  rw [hn] at hok
  refine run_then_step (h.run_events hj hlt (hok.mono n.le_succ)) ?_
  have hj' : (BitVec.ofNat 6 n).toNat = n := State.afterEvents_j hlt
  have hall : (s.eventsOf s.aCnt.toNat).take (n + 1) = s.eventsOf s.aCnt.toNat :=
    List.take_of_length_le (by rw [State.eventsOf_length, hn])
  rw [h.step_afterEvents hlt hok, State.advance_last (by simp [hj', hn]), State.afterEvents, hall]
  generalize s.acceptAll (s.eventsOf s.aCnt.toNat) = t
  rfl

end Sys2Proof.Machine
end

section
/-! SUPPORT. A load with every event accepted, address by address, from its start to DONE (45_load_sequencer.md R106 to
R108, R110, 90_worked_scenario.md R144). -/

namespace Sys2Proof.Machine

/-! ### One address -/

/-- The state a whole address leaves, each of its events accepted. -/
def State.loadAddress (s : State) : State :=
  ((s.fetchWord s.address).acceptAll (s.eventsOf s.aCnt.toNat)).nextAddress

/-- The sequencer is about to perform event 0 of an address of the image, with no turn of the host waiting. -/
structure AddressBegins (s : State) : Prop where
  turns : s.turns = []
  phase : s.phase = .run
  address : s.aCnt.toNat < 16
  event : s.j = 0

theorem AddressBegins.fetched {s : State} (h : AddressBegins s) : InAddress (s.fetchWord s.address) := by
  refine ⟨h.turns, h.phase, h.address, ?_⟩
  show imgRead s.img s.address = s.img.toList.getD s.aCnt.toNat 0
  rw [imgRead_eq_getD, State.address_toNat h.address]

/-- Fetching the word is no step of its own: at `J = 0` the sequencer's step begins with it (R102). -/
theorem AddressBegins.step_fetchWord {s : State} (h : AddressBegins s) : step (s.fetchWord s.address) = step s := by
  have hbegin : s.beginEvent = s.fetchWord s.address := if_pos h.event
  have hturns : (s.fetchWord s.address).turns = [] := h.turns
  rw [step_of_no_turns h.turns, step_of_no_turns hturns]
  simp only [sequencerStep, h.fetched.beginEvent_eq, hbegin, h.phase, State.fetchWord_phase]
  rfl

theorem run_congr_step {s t : State} (h : step s = step t) (n : Nat) :
    Host.Core.run core (n + 1) s = Host.Core.run core (n + 1) t := by
  have hcore : core.step s = core.step t := h
  simp only [Host.Core.run, hcore]

theorem AddressBegins.run_loadAddress {s : State} (h : AddressBegins s) (hok : s.answersOk s.cfg.eventCount) :
    Host.Core.run core s.cfg.eventCount s = .next s.loadAddress := by
  have hrun := h.fetched.run_address h.event hok
  obtain ⟨n, hn⟩ := Nat.exists_eq_add_of_le' s.cfg.eventCount_pos
  rw [State.fetchWord_cfg, hn, run_congr_step h.step_fetchWord] at hrun
  rw [hn, hrun]
  rfl

/-! ### The addresses before the `n`-th -/

/-- The least time of an address's events (R110). -/
def Cfg.addressMs (c : Cfg) : Nat := c.tAddr.toNat + c.tLatch.toNat + c.tWe.toNat + c.tGap.toNat

/-- `t` is the state of a load from `s` once the addresses below `n` are loaded. -/
structure LoadedTo (s : State) (n : Nat) (t : State) : Prop where
  event : t.j = 0
  address : t.aCnt.toNat = n
  phase : t.phase = if n = 16 then .done else .run
  code : t.code = s.code
  cfg : t.cfg = s.cfg
  img : t.img = s.img
  host : SameHost s t
  writeEnable : t.lines.weN = true
  clock : t.lines.clk = false
  cells : ∀ a < n, t.readCell a = some (s.delivered a)
  trace : t.trace = s.trace ++ accepted s.cfg ((List.range n).flatMap s.eventsOf)
  time : s.time + n * s.cfg.addressMs ≤ t.time
  answers : ∀ k, t.answerAt k = s.answerAt (n * s.cfg.eventCount + k)

theorem LoadBegins.loadedTo {s : State} (h : LoadBegins s) : LoadedTo s 0 s where
  event := h.event
  address := by simp [h.address]
  phase := h.phase
  code := rfl
  cfg := rfl
  img := rfl
  host := ⟨rfl, rfl, rfl, rfl, rfl⟩
  writeEnable := h.writeEnable
  clock := h.clock
  cells := nofun
  trace := by simp [accepted]
  time := by simp
  answers := by simp

section

variable {s t : State} {n : Nat} (h : LoadedTo s n t) (hn : n < 16)

include h hn

theorem LoadedTo.addressBegins (hturns : s.turns = []) : AddressBegins t := by
  obtain ⟨-, hturns', -⟩ := h.host
  exact ⟨hturns'.trans hturns, h.phase.trans (if_neg hn.ne), h.address.trans_lt hn, h.event⟩

omit hn in
theorem LoadedTo.loadAddress_eq :
    t.loadAddress = ((t.fetchWord t.address).acceptAll (s.eventsOf n)).nextAddress := by
  rw [State.loadAddress, State.eventsOf, h.cfg, h.img, h.address, State.eventsOf]

/-- What address `n` leaves of the target and the lines, and its word (R107). -/
theorem LoadedTo.loadAddress_target :
    ProgramsCell t t.loadAddress n (s.delivered n) ∧ t.loadAddress.w = s.img.toList.getD n 0
      ∧ t.loadAddress.lines.address = BitVec.ofNat 4 n
      ∧ t.loadAddress.lines.data = (frame (s.img.toList.getD n 0) s.cfg.order).getLastD false
      ∧ t.loadAddress.lines.clk = false ∧ t.loadAddress.lines.latch = false ∧ t.loadAddress.lines.weN = true := by
  have ⟨hparams, _⟩ := h.host
  have hword : (t.fetchWord t.address).w = s.img.toList.getD n 0 := by
    show imgRead t.img t.address = _
    rw [imgRead_eq_getD, State.address_toNat (h.address.trans_lt hn), h.address, h.img]
  have hprog := State.acceptAll_eventList_programsCell (s := t.fetchWord t.address) h.writeEnable (.inl h.clock)
    (BitVec.ofNat 4 n) (s.img.toList.getD n 0) s.cfg
  have hlines := (t.fetchWord t.address).acceptAll_eventList_lines (BitVec.ofNat 4 n) (s.img.toList.getD n 0) s.cfg
  obtain ⟨⟨-, -, -, hw, -⟩, -⟩ := (t.fetchWord t.address).acceptAll_frame (s.eventsOf n)
  rw [BitVec.toNat_ofNat, Nat.mod_eq_of_lt hn, State.fetchWord_params, hparams] at hprog
  rw [h.loadAddress_eq]
  rw [← State.eventsOf] at hprog hlines
  generalize (t.fetchWord t.address).acceptAll (s.eventsOf n) = u at *
  refine ⟨⟨hprog.word, hprog.cell, hprog.others⟩, hw.trans hword, ?_⟩
  show u.lines.address = _ ∧ u.lines.data = _ ∧ u.lines.clk = _ ∧ u.lines.latch = _ ∧ u.lines.weN = _
  rw [hlines]
  exact ⟨Lines.address_of_bits Lines.reset _, rfl, rfl, rfl, rfl⟩

theorem LoadedTo.next : LoadedTo s (n + 1) t.loadAddress := by
  obtain ⟨⟨-, hcell, hothers⟩, -, -, -, hclk, -, hweN⟩ := h.loadAddress_target hn
  have hlength := s.eventsOf_length n
  have htime := (t.fetchWord t.address).time_le_acceptAll (s.eventsOf n)
  have htime' := h.time
  obtain ⟨⟨hphase, haCnt, -, -, hcode, hcfg, himg⟩, hhost, htrace, hpath, hdraws⟩ :=
    (t.fetchWord t.address).acceptAll_frame (s.eventsOf n)
  rw [State.fetchWord_cfg, h.cfg, State.eventsOf, eventList_leastMs, ← State.eventsOf, ← Cfg.addressMs] at htime
  have hanswer (k : Nat) := State.answerAt_of_fields t _ k (s.eventsOf n).length hpath hdraws
  have haddr : t.aCnt.toNat = n := h.address
  rw [h.loadAddress_eq] at hcell hothers hclk hweN ⊢
  generalize (t.fetchWord t.address).acceptAll (s.eventsOf n) = u at *
  have haCnt' : u.aCnt.toNat = n := haCnt ▸ haddr
  refine ⟨rfl, ?_, ?_, hcode.trans h.code, hcfg.trans h.cfg, himg.trans h.img, h.host.trans hhost, hweN, hclk,
    fun a ha => ?_, ?_, ?_, fun k => ?_⟩
  · show (u.aCnt + 1).toNat = n + 1
    bv_omega
  · show (if u.aCnt.toNat + 1 = 16 then Phase.done else u.phase) = _
    rw [haCnt', hphase, State.fetchWord_phase, h.phase]
    simp [hn.ne]
  · by_cases han : a = n
    · exact han ▸ hcell
    · exact (hothers a han).trans (h.cells a (by omega))
  · show u.trace = _
    rw [htrace, State.fetchWord_trace, h.trace, State.fetchWord_cfg, h.cfg, List.range_succ, List.flatMap_append]
    simp [accepted]
  · show _ ≤ u.time
    rw [Nat.succ_mul]
    rw [State.fetchWord_time] at htime
    omega
  · show u.answerAt k = _
    rw [hanswer, h.answers, hlength, Nat.succ_mul, Nat.add_assoc]

theorem LoadedTo.run_next (hturns : s.turns = []) (hok : s.answersOk ((n + 1) * s.cfg.eventCount)) :
    Host.Core.run core s.cfg.eventCount t = .next t.loadAddress := by
  rw [← h.cfg]
  refine (h.addressBegins hn hturns).run_loadAddress fun k hk => ?_
  rw [h.cfg] at hk
  rw [h.answers, hok]
  rw [Nat.succ_mul]
  omega

end

theorem LoadBegins.run_addresses {s : State} (h : LoadBegins s) {n : Nat} (hn : n ≤ 16)
    (hok : s.answersOk (n * s.cfg.eventCount)) :
    ∃ t, Host.Core.run core (n * s.cfg.eventCount) s = .next t ∧ LoadedTo s n t := by
  induction n with
  | zero => exact ⟨s, by simp [Host.Core.run], h.loadedTo⟩
  | succ n ih =>
    obtain ⟨t, hrun, ht⟩ := ih (by omega) (hok.mono (Nat.mul_le_mul_right _ n.le_succ))
    rw [Nat.succ_mul, run_add _ hrun]
    exact ⟨_, ht.run_next hn h.turns hok, ht.next hn⟩

/-! ### The whole load -/

/-- Settles O49: the invariant of the load after 15 addresses gives it after 16, with what the last address leaves. -/
theorem loadDeliversTheImage : Obligations.LoadDeliversTheImage := by
  intro s h hok
  obtain ⟨t, hrun, ht⟩ := h.run_addresses (n := 15) (by omega) (hok.mono (by omega))
  have hlast := ht.run_next (by omega) h.turns hok
  rw [← run_add _ hrun, ← Nat.succ_mul] at hlast
  obtain ⟨⟨⟨hsr, hq⟩, -, -⟩, hw, haddr, hdata, hclk, hlatch, hweN⟩ := ht.loadAddress_target (by omega)
  have hend := ht.next (by omega)
  have hword : s.img.toList.getD 15 0 = imgRead s.img 15 := (imgRead_eq_getD s.img 15).symm
  rw [hword] at hw hdata
  exact ⟨_, hlast, hend.phase, hend.code.trans h.code, hend.address, hend.event, hw, hend.cells, hsr, hq, haddr, hdata,
    hclk, hlatch, hweN, hend.cfg, hend.img, hend.host⟩

/-! ### The events of a load (R106, R144) -/

/-- Whether an event is a SET. -/
def Prim.isSet : Prim → Bool
  | .set _ _ => true
  | .wait _ => false

/-- An address has 33 SETs, and 3 WAITs or 4 (R98). -/
theorem eventList_counts (a : Nibble) (w : Byte) (c : Cfg) :
    (eventList a w c).countP Prim.isSet = 33 ∧ (eventList a w c).countP (fun e => !e.isSet) = 3 + c.offset := by
  obtain ⟨hset, hwait⟩ : (addrselPrims a c).countP Prim.isSet = 4
      ∧ (addrselPrims a c).countP (fun e => !e.isSet) = c.offset := by
    unfold addrselPrims Cfg.offset
    split <;> exact ⟨rfl, rfl⟩
  obtain ⟨hset', hwait'⟩ : (afterAddrsel w c.order).countP Prim.isSet = 29
      ∧ (afterAddrsel w c.order).countP (fun e => !e.isSet) = 3 := by
    cases c.order <;> exact ⟨rfl, rfl⟩
  rw [eventList_eq, List.countP_append, List.countP_append, hset, hset', hwait, hwait', Nat.add_comm c.offset]
  exact ⟨rfl, rfl⟩

/-- What every address has equally often, `n` addresses have `n` times as often. -/
theorem countP_eventsOf {s : State} {p : Prim → Bool} {k : Nat} (h : ∀ a, (s.eventsOf a).countP p = k) (n : Nat) :
    ((List.range n).flatMap s.eventsOf).countP p = n * k := by
  simp [List.countP_flatMap, Function.comp_def, h]

/-- Settles O50: the trace and the time are the invariant's after 16 addresses, and the counts are 16 addresses'. -/
theorem loadTraceIsTheSixteenEventLists : Obligations.LoadTraceIsTheSixteenEventLists := by
  intro s h hok
  obtain ⟨t, hrun, ht⟩ := h.run_addresses (n := 16) le_rfl hok
  refine ⟨t, _, hrun, rfl, ht.trace, ?_, ?_, ht.time⟩ <;> rw [← List.countP_eq_length_filter]
  · have hsets := countP_eventsOf (s := s) (p := Prim.isSet) (fun _ => (eventList_counts _ _ _).1) 16
    refine Eq.trans (List.countP_congr fun e _ => ?_) hsets
    cases e <;> exact Iff.rfl
  · have hwaits := countP_eventsOf (s := s) (p := fun e => !e.isSet) (fun _ => (eventList_counts _ _ _).2) 16
    refine (Eq.trans (List.countP_congr fun e _ => ?_) hwaits).trans ?_
    · cases e <;> exact Iff.rfl
    · unfold Cfg.offset
      split <;> rfl

end Sys2Proof.Machine
end

section
/-! SUPPORT. The host's commands LOAD and READ_STATUS (45_load_sequencer.md R100, R101, R104, R105, 10_state.md R22). -/

namespace Sys2Proof.Machine

/-! ### LOAD -/

theorem LoadData.legal_iff (d : LoadData) : d.legal = true ↔
    d.image.length = 16 ∧ (∀ w ∈ d.image, w ≤ 255)
      ∧ d.tAddr ≤ 65535 ∧ (10 ≤ d.tLatch ∧ d.tLatch ≤ 65535) ∧ (200 ≤ d.tWe ∧ d.tWe ≤ 65535)
      ∧ (100 ≤ d.tGap ∧ d.tGap ≤ 65535) := by
  simp only [LoadData.legal, Bool.and_eq_true, decide_eq_true_eq, List.all_eq_true]
  simp only [Config.capacity, Config.delayMax]
  tauto

/-- Settles O39: `legal` is the conjunction of the bounds. -/
theorem legalLoadBounds : Obligations.LegalLoadBounds := LoadData.legal_iff

/-- The words a legal LOAD brings are the image given (R100, R101). -/
theorem LoadData.words_toNat {d : LoadData} (hlen : d.image.length = 16) (hbytes : ∀ w ∈ d.image, w ≤ 255) :
    d.words.toList.map (fun w => w.toNat) = d.image := by
  refine List.ext_getElem (by simp [hlen]) fun i hi hi' => ?_
  have hle := hbytes _ (List.getElem_mem hi')
  simp only [LoadData.words, List.getElem_map, Vector.getElem_toList, Vector.getElem_ofFn,
    List.getD_eq_getElem _ _ hi', BitVec.toNat_ofNat]
  omega

theorem exec_load_of_legal {o : Order} {s : State} (hp : s.phase ≠ .run) (hlegal : s.offer.legal = true) :
    exec (.load o) s = .next (s.startLoad (s.offer.cfg o) s.offer.words) := by
  simp [exec, execLoad, hp, hlegal]

/-- Settles O40: legal data fit the widths of `CFG` and of the words, so they arrive as given. -/
theorem loadStartsAtAddressZero : Obligations.LoadStartsAtAddressZero := by
  intro o s hp hlegal
  obtain ⟨hlen, hbytes, haddr, ⟨-, hlatch⟩, ⟨-, hwe⟩, ⟨-, hgap⟩⟩ := s.offer.legal_iff.1 hlegal
  have hfit {n : Nat} (h : n ≤ 65535) : (BitVec.ofNat 16 n).toNat = n := by
    rw [BitVec.toNat_ofNat]
    omega
  exact ⟨_, exec_load_of_legal hp hlegal, rfl, rfl, rfl, rfl, rfl, rfl, hfit haddr, hfit hlatch, hfit hwe, hfit hgap,
    LoadData.words_toNat hlen hbytes, rfl, ⟨rfl, rfl, fun _ => rfl⟩, rfl, rfl, ⟨rfl, rfl, rfl, rfl, rfl⟩⟩

/-- Settles O42: in RUN only the host is answered. -/
theorem loadWhileRunningIsBusy : Obligations.LoadWhileRunningIsBusy := by
  intro o s hp
  refine ⟨?_, rfl⟩
  simp [exec, execLoad, hp, State.answerHost]

/-! ### READ_STATUS -/

open BitVec in
/-- The fields of the status word: each is what is left once the fields above it and below it are cut off (R22). -/
theorem State.statusWord_fields (s : State) :
    s.statusWord.extractLsb' 0 2 = s.phase.bits ∧ s.statusWord.extractLsb' 2 3 = s.code
      ∧ s.statusWord.extractLsb' 5 4 = s.aCnt.extractLsb' 0 4 ∧ s.statusWord.extractLsb' 9 6 = s.j
      ∧ s.statusWord.getLsbD 15 = false := by
  unfold State.statusWord
  refine ⟨?_, ?_, ?_, ?_, ?_⟩
  · rw [extractLsb'_append_eq_of_add_le (by decide), extractLsb'_append_eq_of_add_le (by decide),
      extractLsb'_append_eq_of_add_le (by decide)]
    exact extractLsb'_append_eq_right
  · rw [extractLsb'_append_eq_of_add_le (by decide), extractLsb'_append_eq_of_add_le (by decide),
      extractLsb'_append_eq_of_add_le (by decide)]
    exact extractLsb'_append_eq_left
  · rw [extractLsb'_append_eq_of_add_le (by decide), extractLsb'_append_eq_of_add_le (by decide)]
    exact extractLsb'_append_eq_left
  · rw [extractLsb'_append_eq_of_add_le (by decide)]
    exact extractLsb'_append_eq_left
  · rw [getLsbD_append]
    rfl

/-- Settles O43: the status word has its fields, and in DONE the invariant fixes them. -/
theorem readStatusReturnsTheFields : Obligations.ReadStatusReturnsTheFields := by
  intro s
  obtain ⟨hphase, hcode, haCnt, hj, htop⟩ := s.statusWord_fields
  refine ⟨s.statusWord, rfl, hphase, hcode, haCnt, hj, htop, fun hinv hdone => ?_⟩
  obtain ⟨hcode, haCnt, hj⟩ := hinv.done hdone
  rw [State.statusWord, hdone, hcode, haCnt, hj]
  rfl

end Sys2Proof.Machine
end

section
/-! SUPPORT. LOAD with illegal data (60_exceptions.md R114), and the ways out of FAULT: what an instruction, an
operation stopped by RESET and a step leave of the fault's registers (60_exceptions.md R120, R121, 10_state.md R22). -/

namespace Sys2Proof.Machine

/-! ### LOAD refused (R114) -/

theorem exec_load_of_illegal {o : Order} {s : State} (hp : s.phase ≠ .run) (hillegal : s.offer.legal = false) :
    exec (.load o) s = .next (s.raiseFault codeConfigRefused 0 0) := by
  simp [exec, execLoad, hp, hillegal]

/-- Settles O41: ConfigRefused is raised at address 0, event 0, and a fault touches its own registers alone. -/
theorem illegalLoadIsRefused : Obligations.IllegalLoadIsRefused := fun _ _ => exec_load_of_illegal

/-! ### Operations of the pin path in FAULT (R121) -/

/-- In FAULT an operation that leaves the registers alone leaves them as a fault at the present position would. -/
theorem SameRegisters.faultsHere {s t : State} (h : SameRegisters s t) (hp : s.phase = .fault) : FaultsHere s t := by
  obtain ⟨hphase, haCnt, hj, -, hcode, -⟩ := h
  exact ⟨hphase.trans hp, hcode.trans (if_pos hp).symm, haCnt, hj⟩

section

variable {s : State} (hp : s.phase = .fault)

include hp

theorem FaultsHere.record {t : State} (h : FaultsHere s t) :
    t.phase = .fault ∧ t.code = s.code ∧ t.aCnt = s.aCnt ∧ t.j = s.j := by
  obtain ⟨hphase, hcode, hposition⟩ := h
  exact ⟨hphase, hcode.trans (if_pos hp), hposition⟩

theorem State.attempt_faultsHere (e : Prim) : FaultsHere s (s.attempt e).1 := by
  rcases s.attempt_cases e with ⟨-, h⟩ | ⟨landed, -, h⟩ <;> rw [h]
  · exact (s.accept_frame e).1.faultsHere hp
  · exact (s.reject_frame landed e).1

theorem State.runPrims_faultsHere (k : Nat) (es : List Prim) : FaultsHere s (s.runPrims k es).1 := by
  rcases s.runPrims_cases k es with h | ⟨n, e, landed, -, h⟩ <;> rw [h]
  · exact (s.acceptAll_frame es).1.faultsHere hp
  · exact (s.acceptAll_reject_frame _ landed e).1

omit hp in
theorem afterShiftout_faultsHere {r : State × Option Nat} (h : FaultsHere s r.1) :
    FaultsHere s (afterShiftout r) := by
  obtain ⟨t, _ | k⟩ := r
  · exact h
  · exact h.then_sameRegisters (afterShiftout_frame t k).1

theorem afterLoadword_faultsHere (a : Nibble) {r : State × Option Nat} (h : FaultsHere s r.1) :
    FaultsHere s (afterLoadword a s r) := by
  obtain ⟨t, _ | k⟩ := r
  · have hkeeps : s.phase.keepsJ = true := (Phase.keepsJ_iff _).2 (.inr hp)
    rwa [afterLoadword, if_pos hkeeps]
  · obtain ⟨hphase, hcode, haCnt, hj⟩ := (afterLoadword_stopped_frame a s t k).2.2 hp
    rwa [FaultsHere, hphase, hcode, haCnt, hj]

theorem sequencerStep_faultsHere {t : State} (h : sequencerStep s = .next t) : FaultsHere s t := by
  rw [sequencerStep_wait s (by simp [hp])] at h
  obtain rfl := Host.Outcome.next.inj h
  exact ⟨hp, (if_pos hp).symm, rfl, rfl⟩

/-! ### The ways out (R120) -/

/-- In FAULT every instruction but RESET and LOAD keeps the fault and its record (R121). -/
theorem execState_of_fault (i : Instr) :
    FaultsHere s (execState i s) ∨ i = .reset ∨ ∃ o, i = .load o := by
  cases i with
  | reset => exact .inr (.inl rfl)
  | load o => exact .inr (.inr ⟨o, rfl⟩)
  | nop | lda | add | sub | sta | ldi | jmp | jc | jz | out | hlt | literal | readStatus =>
    exact .inl ⟨hp, (if_pos hp).symm, rfl, rfl⟩
  | setpin | wait => exact .inl (State.attempt_faultsHere hp _)
  | addrsel | shbegin | shbit | latch | wrpulse | gap => exact .inl (State.runPrims_faultsHere hp 0 _)
  | shiftout => exact .inl (afterShiftout_faultsHere (State.runPrims_faultsHere hp 0 _))
  | loadword a =>
    have hfetched : FaultsHere s ((s.fetchWord a).runPrims 0 (eventList a (imgRead s.img a) s.cfg)).1 :=
      State.runPrims_faultsHere (s := s.fetchWord a) hp 0 _
    exact .inl (afterLoadword_faultsHere hp a hfetched)

end

/-- The code of a RESET is 0xFF, and a LOAD's is 0x90 or 0x91, in the sequencer's format (30_encoding.md R57). -/
theorem decode_eq_reset {f : Format} {b : Byte} (h : decode f b = .instr .reset) : f = .seqOp ∧ b = 0xFF := by
  obtain ⟨hf, hb, -⟩ := decode_eq_instr_iff.1 h
  exact ⟨hf.symm, hb.symm⟩

theorem decode_eq_load {f : Format} {b : Byte} {o : Order} (h : decode f b = .instr (.load o)) :
    f = .seqOp ∧ (b = 0x90 ∨ b = 0x91) := by
  obtain ⟨hf, hb, -⟩ := decode_eq_instr_iff.1 h
  refine ⟨hf.symm, ?_⟩
  cases o with
  | lsbFirst => exact .inl hb.symm
  | msbFirst => exact .inr hb.symm

theorem execThenReset_phase {i : Instr} {k : Nat} {s t : State} (h : execThenReset i k s = .next t) :
    t.phase = .idle := by
  rw [execThenReset_next] at h
  obtain rfl := Host.Outcome.next.inj h
  split
  · rcases s.abandon_cases i k with ha | ⟨n, e, landed, -, -, ha⟩ <;> rw [ha] <;> rfl
  · rfl

/-- The kinds of step from FAULT: nothing changes the record, RESET, or LOAD, accepted or refused. -/
inductive FromFault (s t : State) : Prop where
  | stays (h : FaultsHere s t)
  | reset (hphase : t.phase = .idle) (rest : List Turn)
      (h : s.turns = .code .seqOp 0xFF :: rest ∨ ∃ f b k, s.turns = .codeThenReset f b k :: rest)
  | load (b : Byte) (rest : List Turn) (hturns : s.turns = .code .seqOp b :: rest) (hb : b = 0x90 ∨ b = 0x91)
      (o : Order) (h : exec (.load o) { s with turns := rest } = .next t)

theorem fromFault_of_step {s t : State} (hp : s.phase = .fault) (h : step s = .next t) : FromFault s t := by
  have hstays (rest : List Turn) (asm : Asm) (offer : LoadData) :
      FaultsHere s { s with turns := rest, asm := asm, offer := offer } := ⟨hp, (if_pos hp).symm, rfl, rfl⟩
  rcases step_cases h with ⟨-, hx⟩ | ⟨turn, rest, hturns, hturn⟩
  · exact .stays (sequencerStep_faultsHere hp hx)
  · rcases hturn with ⟨-, hx⟩ | ⟨f, b, i, rfl, hd, -, hx⟩ | ⟨f, b, k, i, rfl, -, -, hx⟩ | ⟨text, i, -, hparse, hx⟩
      | ⟨asm, offer, rfl⟩
    · exact .stays (sequencerStep_faultsHere (s := { s with turns := rest }) hp hx)
    · rcases execState_of_fault (s := { s with turns := rest }) hp i with hkeeps | rfl | ⟨o, rfl⟩
      · rw [exec_next] at hx
        exact Host.Outcome.next.inj hx ▸ .stays hkeeps
      · obtain ⟨rfl, rfl⟩ := decode_eq_reset hd
        exact .reset (Host.Outcome.next.inj hx ▸ rfl) rest (.inl hturns)
      · obtain ⟨rfl, hb⟩ := decode_eq_load hd
        exact .load b rest hturns hb o hx
    · exact .reset (execThenReset_phase hx) rest (.inr ⟨f, b, k, hturns⟩)
    · obtain ⟨e, he⟩ := parseLine_entry _ _ _ _ s.params.hexCase hparse
      rw [exec_payload i { s with turns := rest } e he] at hx
      exact Host.Outcome.next.inj hx ▸ .stays (hstays rest _ s.offer)
    · exact .stays (hstays rest asm offer)

/-- Settles O58: of the kinds of step from FAULT, RESET and an accepted LOAD leave it, and a refused LOAD alone writes
the record anew. -/
theorem faultIsLeftOnlyByResetOrLoad : Obligations.FaultIsLeftOnlyByResetOrLoad := by
  intro s t hp hstep
  rcases fromFault_of_step hp hstep with hstays | ⟨hphase, rest, hturns⟩ | ⟨b, rest, hturns, hb, o, hload⟩
  · obtain ⟨hphase, hrecord⟩ := hstays.record hp
    exact ⟨fun hne => absurd hphase hne, fun _ => .inl hrecord⟩
  · exact ⟨fun _ => .inl ⟨hphase, rest, hturns⟩, fun hfault => by simp [hphase] at hfault⟩
  · have hnotRun : ({ s with turns := rest } : State).phase ≠ .run := by simp [hp]
    cases hlegal : s.offer.legal with
    | true =>
      obtain ⟨u, hu, hphase, -, haCnt, hj, -, -, -, -, -, -, himg, hlines, -⟩ :=
        loadStartsAtAddressZero o { s with turns := rest } hnotRun hlegal
      obtain rfl : u = t := Host.Outcome.next.inj (hu.symm.trans hload)
      exact ⟨fun _ => .inr ⟨hphase, haCnt, hj, hlines, himg, b, rest, hturns, hb⟩,
        fun hfault => by simp [hphase] at hfault⟩
    | false =>
      rw [exec_load_of_illegal hnotRun hlegal] at hload
      obtain rfl := Host.Outcome.next.inj hload
      exact ⟨fun hne => absurd rfl hne, fun _ => .inr ⟨rfl, rfl, rfl, b, rest, hturns, hb⟩⟩

end Sys2Proof.Machine
end

section
/-! SUPPORT. LOADWORD's events up to a rejected one, and what they leave of the cells and of `Q` (60_exceptions.md R116,
20_memory.md R38, R40): nothing is written before the write enable falls, and from then on the word is. -/

namespace Sys2Proof.Machine

/-! ### The events before WRPULSE and from it on -/

/-- The events that present an address and its word: ADDRSEL and SHIFTOUT. -/
def presentPrims (a : Nibble) (w : Byte) (c : Cfg) : List Prim := addrselPrims a c ++ shiftoutPrims w c.order

/-- The events after the fall of the write enable. -/
def afterWriteBegin : List Prim := [.wait .tWe, .set .weN true, .wait .tGap]

theorem presentPrims_length (a : Nibble) (w : Byte) (c : Cfg) : (presentPrims a w c).length = 32 + c.offset := by
  rw [presentPrims, List.length_append, addrselPrims_length, shiftoutPrims_length]
  omega

theorem eventList_eq_present (a : Nibble) (w : Byte) (c : Cfg) :
    eventList a w c = presentPrims a w c ++ .set .weN false :: afterWriteBegin := by
  rw [eventList, List.append_assoc]
  rfl

/-! ### Events that leave the write enable inactive -/

/-- The event does not drive the write enable. -/
def Prim.offWriteEnable : Prim → Bool
  | .set p _ => decide (p ≠ .weN)
  | .wait _ => true

theorem presentPrims_offWriteEnable (a : Nibble) (w : Byte) (c : Cfg) :
    ∀ e ∈ presentPrims a w c, e.offWriteEnable = true := by
  intro e he
  have hline : e.onAddressLines = true ∨ e.onShiftLines = true :=
    (List.mem_append.1 he).imp (addrselPrims_onAddressLines a c e) (shiftoutPrims_onShiftLines w c.order e)
  cases e with
  | set p v =>
    refine decide_eq_true ?_
    rintro rfl
    rcases hline with hline | hline <;> cases hline
  | wait d => rfl

theorem Lines.weN_set_other (l : Lines) {p : Line} (hp : p ≠ .weN) (v : Bool) : (l.set p v).weN = l.weN :=
  l.get_set_other p .weN v hp.symm

section

variable {s : State} (hw : s.lines.weN = true)

include hw

theorem State.accept_of_offWriteEnable {e : Prim} (he : e.offWriteEnable = true) :
    (s.accept e).lines.weN = true ∧ ∀ b, (s.accept e).readCell b = s.readCell b := by
  cases e with
  | set p v =>
    have hhigh : (s.lines.set p v).weN = true := (s.lines.weN_set_other (of_decide_eq_true he) v).trans hw
    exact ⟨hhigh, s.drive_readCell_of_weN p v hhigh⟩
  | wait d => exact ⟨hw, s.settle_commitsInPlace.readCell hw⟩

theorem State.acceptAll_of_offWriteEnable {es : List Prim} (hes : ∀ e ∈ es, e.offWriteEnable = true) :
    (s.acceptAll es).lines.weN = true ∧ ∀ b, (s.acceptAll es).readCell b = s.readCell b := by
  induction es generalizing s with
  | nil => exact ⟨hw, fun _ => rfl⟩
  | cons e rest ih =>
    obtain ⟨he, hrest⟩ := List.forall_mem_cons.1 hes
    obtain ⟨hhigh, hcells⟩ := State.accept_of_offWriteEnable hw he
    obtain ⟨hhigh', hcells'⟩ := ih hhigh hrest
    exact ⟨hhigh', fun b => (hcells' b).trans (hcells b)⟩

theorem State.reject_readCell_of_offWriteEnable (landed : Bool) {e : Prim} (he : e.offWriteEnable = true) (b : Nat) :
    (s.reject landed e).readCell b = s.readCell b := by
  obtain ⟨-, -, -, hm⟩ := s.reject_target landed e
  rw [State.readCell, hm]
  cases e with
  | set p v =>
    exact s.drive_readCell_of_weN p _ ((s.lines.weN_set_other (of_decide_eq_true he) _).trans hw) b
  | wait d => exact s.settle_commitsInPlace.readCell hw b

end

/-! ### Events on the write enable -/

/-- The event drives no line but the write enable. -/
def Prim.onWriteEnable : Prim → Bool
  | .set p _ => decide (p = .weN)
  | .wait _ => true

theorem Prim.offClock_of_onWriteEnable {e : Prim} (he : e.onWriteEnable = true) : e.offClock = true := by
  cases e with
  | set p v =>
    obtain rfl := of_decide_eq_true he
    rfl
  | wait d => rfl

/-- The address is unchanged, and the memory is what the write enable the event leaves makes of it. -/
structure CommitsAfter (s t : State) : Prop where
  cell : t.cell = s.cell
  others : SameCellsBut s.cell s t
  disabled : t.lines.weN = true → t.readCell s.cell = s.readCell s.cell
  enabled : t.lines.weN = false → t.readCell s.cell = some t.q

/-- It is read off the lines, `Q` and the memory alone. -/
theorem CommitsAfter.congr {s t u : State} (h : CommitsAfter s t) (hlines : u.lines = t.lines) (hq : u.q = t.q)
    (hm : u.m = t.m) : CommitsAfter s u := by
  obtain ⟨hcell, hothers, hdisabled, henabled⟩ := h
  constructor <;> simpa only [State.cell, SameCellsBut, State.readCell, hlines, hq, hm]

theorem State.drive_weN_commitsAfter (s : State) (v : Bool) : CommitsAfter s (s.drive .weN v) := by
  have hcell : (s.drive .weN v).cell = s.cell := s.drive_cell .weN v (.inr rfl)
  exact ⟨hcell, fun b hb => s.drive_readCell_other .weN v b hb (hcell ▸ hb),
    fun hw => s.drive_readCell_of_weN .weN v hw _, fun hw => hcell ▸ s.drive_readCell_cell .weN v (.inr rfl) hw⟩

theorem State.settle_commitsAfter (s : State) : CommitsAfter s s.settle := by
  obtain ⟨hothers, hdisabled, henabled⟩ := s.settle_commits
  exact ⟨rfl, hothers, hdisabled, henabled⟩

theorem State.accept_commitsAfter (s : State) {e : Prim} (he : e.onWriteEnable = true) :
    CommitsAfter s (s.accept e) := by
  cases e with
  | set p v =>
    obtain rfl := of_decide_eq_true he
    exact (s.drive_weN_commitsAfter v).congr rfl rfl rfl
  | wait d => exact s.settle_commitsAfter.congr rfl rfl rfl

theorem State.reject_commitsAfter (s : State) (landed : Bool) {e : Prim} (he : e.onWriteEnable = true) :
    CommitsAfter s (s.reject landed e) := by
  obtain ⟨hlines, -, hq, hm⟩ := s.reject_target landed e
  cases e with
  | set p v =>
    obtain rfl := of_decide_eq_true he
    exact (s.drive_weN_commitsAfter _).congr hlines hq hm
  | wait d => exact s.settle_commitsAfter.congr hlines hq hm

/-- A programmed cell stays programmed while the target holds the word and the address stays. -/
theorem ProgramsCell.trans_commitsAfter {s t u : State} {v : Byte} (h : ProgramsCell s t s.cell v)
    (haddr : t.cell = s.cell) (hu : CommitsAfter t u) (hword : u.holdsWord v) :
    ProgramsCell s u s.cell v ∧ u.cell = s.cell := by
  obtain ⟨-, hcell, hothers⟩ := h
  obtain ⟨haddr', hothers', hdisabled, henabled⟩ := hu
  rw [haddr] at haddr' hothers' hdisabled henabled
  refine ⟨⟨hword, ?_, fun b hb => (hothers' b hb).trans (hothers b hb)⟩, haddr'⟩
  cases hw : u.lines.weN with
  | true => exact (hdisabled hw).trans hcell
  | false => exact (henabled hw).trans (congrArg some hword.2)

section

variable {s : State} {v : Byte} (hword : s.holdsWord v)

include hword

/-- Once the write enable has fallen, the addressed cell is programmed, and later events on it leave it so. -/
theorem State.acceptAll_fall_programsCell {es : List Prim} (hes : ∀ e ∈ es, e.onWriteEnable = true) :
    ProgramsCell s (s.acceptAll (.set .weN false :: es)) s.cell v
      ∧ (s.acceptAll (.set .weN false :: es)).cell = s.cell := by
  induction es using List.reverseRecOn with
  | nil =>
    have hfall := s.accept_commitsAfter (e := .set .weN false) rfl
    have hword' := hword.accept (e := .set .weN false) rfl
    exact ⟨⟨hword', (hfall.enabled rfl).trans (congrArg some hword'.2), hfall.others⟩, hfall.cell⟩
  | append_singleton es e ih =>
    obtain ⟨hes, he⟩ := List.forall_mem_append.1 hes
    have he : e.onWriteEnable = true := he e List.mem_cons_self
    obtain ⟨hprog, haddr⟩ := ih hes
    rw [← List.cons_append, State.acceptAll_append]
    exact hprog.trans_commitsAfter haddr (State.accept_commitsAfter _ he)
      (hprog.word.accept (Prim.offClock_of_onWriteEnable he))

/-- An event rejected after the fall leaves the cell programmed, at either level of the write enable. -/
theorem State.acceptAll_fall_reject_programsCell {es : List Prim} (hes : ∀ e ∈ es, e.onWriteEnable = true)
    (landed : Bool) {e : Prim} (he : e.onWriteEnable = true) :
    ProgramsCell s ((s.acceptAll (.set .weN false :: es)).reject landed e) s.cell v := by
  obtain ⟨hprog, haddr⟩ := State.acceptAll_fall_programsCell hword hes
  exact (hprog.trans_commitsAfter haddr (State.reject_commitsAfter _ landed he)
    (hprog.word.reject landed (Prim.offClock_of_onWriteEnable he))).1

/-- A rejected fall has programmed the addressed cell if it landed, and no cell if not (20_memory.md R40). -/
theorem State.reject_fall_cells (hw : s.lines.weN = true) (landed : Bool) :
    (s.reject landed (.set .weN false)).holdsWord v ∧ SameCellsBut s.cell s (s.reject landed (.set .weN false))
      ∧ (s.reject landed (.set .weN false)).readCell s.cell = if landed then some v else s.readCell s.cell := by
  obtain ⟨-, hothers, hdisabled, henabled⟩ := s.reject_commitsAfter landed (e := .set .weN false) rfl
  have hword' := hword.reject landed (e := .set .weN false) rfl
  obtain ⟨hlines, -⟩ := s.reject_set_target .weN false landed
  rw [hlines] at hdisabled henabled
  refine ⟨hword', hothers, ?_⟩
  cases landed with
  | true => exact (henabled rfl).trans (congrArg some hword'.2)
  | false => exact hdisabled hw

end

/-! ### LOADWORD stopped -/

/-- The cells and the outputs where the events of address `a` stop at event `k`, of offset `o`, from a state `s` with the
word `v` to deliver (R116). -/
structure StopsAt (s t : State) (o a k : Nat) (landed : Bool) (v : Byte) : Prop where
  others : SameCellsBut a s t
  before : k < 32 + o → t.readCell a = s.readCell a
  fall : k = 32 + o → t.readCell a = if landed then some v else s.readCell a
  after : 32 + o < k → t.readCell a = some v
  outputs : 29 + o < k ∨ k = 29 + o ∧ landed = true → t.q = v

section

variable {s : State} {a : Nibble} {k : Nat} {landed : Bool} {e : Prim}
  (he : (eventList a (imgRead s.img a) s.cfg)[k]? = some e) (hw : s.lines.weN = true)

include he hw

/-- Before the fall of the write enable no cell is written. -/
theorem State.loadwordRejected_readCell (hk : k < 32 + s.cfg.offset) (b : Nat) :
    (s.loadwordRejected a k landed e).readCell b = s.readCell b := by
  have hlength := presentPrims_length a (imgRead s.img a) s.cfg
  have hoff := presentPrims_offWriteEnable a (imgRead s.img a) s.cfg
  rw [eventList_eq_present, List.getElem?_append_left (by omega)] at he
  rw [State.loadwordRejected, eventList_eq_present, List.take_append_of_le_length (by omega)]
  obtain ⟨hw', hcells⟩ := State.acceptAll_of_offWriteEnable (s := s.fetchWord a) hw fun e he =>
    hoff e (List.mem_of_mem_take he)
  exact (State.reject_readCell_of_offWriteEnable hw' landed (hoff e (List.mem_of_getElem? he)) b).trans (hcells b)

omit hw in
/-- From the rise of LATCH to the end of SHIFTOUT the outputs hold the word (43_shift_controller.md R93). -/
theorem State.loadwordRejected_q_of_rise (hshifts : s.shiftsEight) (hk : k < 32 + s.cfg.offset)
    (hrise : 29 + s.cfg.offset < k ∨ k = 29 + s.cfg.offset ∧ landed = true) :
    (s.loadwordRejected a k landed e).q = deliver s.cfg.order s.params.firstBit (imgRead s.img a) := by
  obtain ⟨i, rfl⟩ : ∃ i, k = 4 + s.cfg.offset + i := Nat.exists_eq_add_of_le (by omega)
  have hlines := (s.fetchWord a).acceptAll_addrselPrims_lines a s.cfg
  have hready : ((s.fetchWord a).acceptAll (addrselPrims a s.cfg)).shiftsEight := by
    rwa [State.shiftsEight, hlines, State.acceptAll_params]
  have hshift : i < (shiftoutPrims (imgRead s.img a) s.cfg.order).length := by
    rw [shiftoutPrims_length]
    omega
  rw [eventList_getElem?_after, afterAddrsel, List.append_assoc, List.getElem?_append_left hshift] at he
  have hstop := (State.shiftoutRejected_after_rise _ (landed := landed) he
    (hrise.imp (by omega) (And.imp_left (by omega))) hready).2
  rw [State.loadwordRejected, eventList_eq, afterAddrsel, List.append_assoc, List.take_append, addrselPrims_length,
    Nat.add_sub_cancel_left, List.take_of_length_le (by simp), List.take_append_of_le_length hshift.le,
    State.acceptAll_append]
  rwa [State.acceptAll_params] at hstop

/-- From the fall of the write enable on, the word is there and its cell is as the fall left it, or programmed. -/
theorem State.loadwordRejected_write (hshifts : s.shiftsEight) (hk : 32 + s.cfg.offset ≤ k) :
    StopsAt s (s.loadwordRejected a k landed e) s.cfg.offset a.toNat k landed
      (deliver s.cfg.order s.params.firstBit (imgRead s.img a)) := by
  have hlength := presentPrims_length a (imgRead s.img a) s.cfg
  have hoff := presentPrims_offWriteEnable a (imgRead s.img a) s.cfg
  obtain ⟨i, rfl⟩ := Nat.exists_eq_add_of_le hk
  obtain ⟨hword, -, hcell, hkeep⟩ := State.acceptAll_presentsWord (s := s.fetchWord a) hw hshifts a (imgRead s.img a)
    s.cfg
  obtain ⟨hw', -⟩ := State.acceptAll_of_offWriteEnable (s := s.fetchWord a) hw hoff
  rw [← presentPrims] at hword hcell hkeep
  rw [State.fetchWord_params] at hword
  rw [eventList_eq_present, ← hlength, List.getElem?_append_right (by omega), Nat.add_sub_cancel_left] at he
  have hevents : (eventList a (imgRead s.img a) s.cfg).take (32 + s.cfg.offset + i)
      = presentPrims a (imgRead s.img a) s.cfg ++ (Prim.set .weN false :: afterWriteBegin).take i := by
    rw [eventList_eq_present, ← hlength, List.take_length_add_append]
  rw [State.loadwordRejected, hevents, State.acceptAll_append]
  generalize (s.fetchWord a).acceptAll (presentPrims a (imgRead s.img a) s.cfg) = p at *
  have hothers {t : State} (h : SameCellsBut p.cell p t) : SameCellsBut a.toNat s t := fun b hb =>
    (h b (hcell ▸ hb)).trans (hkeep b)
  cases i with
  | zero =>
    obtain rfl : Prim.set .weN false = e := Option.some.inj he
    obtain ⟨hword', hrest, hread⟩ := State.reject_fall_cells hword hw' landed
    rw [hcell, hkeep] at hread
    exact ⟨hothers hrest, by omega, fun _ => hread, by omega, fun _ => hword'.2⟩
  | succ i =>
    have hon : ∀ e ∈ afterWriteBegin, e.onWriteEnable = true := by decide
    obtain ⟨hword', hread, hrest⟩ := State.acceptAll_fall_reject_programsCell hword (es := afterWriteBegin.take i)
      (fun e he => hon e (List.mem_of_mem_take he)) landed (hon e (List.mem_of_getElem? he))
    rw [hcell] at hread
    exact ⟨hothers hrest, by omega, by omega, fun _ => hread, fun _ => hword'.2⟩

theorem State.loadwordRejected_stopsAt (hshifts : s.shiftsEight) :
    StopsAt s (s.loadwordRejected a k landed e) s.cfg.offset a.toNat k landed
      (deliver s.cfg.order s.params.firstBit (imgRead s.img a)) := by
  by_cases hk : k < 32 + s.cfg.offset
  · have hread (b : Nat) := State.loadwordRejected_readCell (landed := landed) he hw hk b
    exact ⟨fun b _ => hread b, fun _ => hread _, by omega, by omega,
      State.loadwordRejected_q_of_rise he hshifts hk⟩
  · exact State.loadwordRejected_write he hw hshifts (by omega)

end

end Sys2Proof.Machine
end

section
/-! SUPPORT. A load stopped at its first rejected event (60_exceptions.md R115, R116): the addresses before it are
loaded, and its own address stops as LOADWORD does. -/

namespace Sys2Proof.Machine

/-! ### The run of the address that stops -/

/-- A rejected event does not look at `J` but to record it. -/
theorem State.reject_withJ (s : State) (j : BitVec 6) (landed : Bool) (e : Prim) :
    ({ s with j := j } : State).reject landed e = { s.reject landed e with j := j } := by
  have hfail : ({ s with j := j } : State).failPrim landed e = { s.failPrim landed e with j := j } := by
    cases e <;> rfl
  rw [State.reject_eq, State.reject_eq, hfail]
  by_cases hp : s.phase = .fault <;> simp [State.ioError, hp, State.record, State.spend, State.raiseFault]

theorem State.rejectsFirst_acceptAll {s : State} {es : List Prim} {n : Nat} {landed : Bool}
    (h : s.rejectsFirst (es.length + n) landed) : (s.acceptAll es).rejectsFirst n landed := by
  obtain ⟨-, -, -, hpath, hdraws⟩ := s.acceptAll_frame es
  refine ⟨State.answersOk_acceptAll h.1, ?_⟩
  rw [State.answerAt_of_fields s _ n es.length hpath hdraws]
  exact h.2

/-- The step at the address's event `k`, rejected after those before it. -/
theorem InAddress.step_afterEvents_rejected {s : State} (h : InAddress s) {k : Nat} {landed : Bool} {e : Prim}
    (hk : k < s.cfg.eventCount) (he : (s.eventsOf s.aCnt.toNat)[k]? = some e) (hrej : s.rejectsFirst k landed) :
    step (s.afterEvents k) = .next (afterSequencerEvent ((s.afterEvents k).reject landed e, false)) := by
  have hafter := h.afterEvents k
  have hbegin := hafter.beginEvent_eq
  obtain ⟨hturns, hphase, haddr, hword⟩ := hafter
  have hrej' : (s.acceptAll ((s.eventsOf s.aCnt.toNat).take k)).rejectsFirst 0 landed := by
    refine State.rejectsFirst_acceptAll ?_
    rwa [List.length_take, State.eventsOf_length, Nat.min_eq_left hk.le]
  rw [step_of_rejected (e := e) hturns hphase haddr ?_ hrej', hbegin]
  rw [hbegin, hword, State.address_eq_ofNat haddr, State.afterEvents_j hk, ← State.eventsOf, State.afterEvents_eventsOf,
    State.afterEvents_aCnt]
  exact he

/-- A load's address whose event `k` is rejected stops as LOADWORD does, with `J` at `k`; the aborted shift may lose
`SR`. -/
theorem AddressBegins.run_rejected {s : State} (h : AddressBegins s) {k : Nat} {landed : Bool}
    (hk : k < s.cfg.eventCount) (hrej : s.rejectsFirst k landed) :
    ∃ e sr draws, (eventList s.address (imgRead s.img s.address) s.cfg)[k]? = some e
      ∧ Host.Core.run core (k + 1) s
        = .next { s.loadwordRejected s.address k landed e with j := BitVec.ofNat 6 k, sr := sr, draws := draws } := by
  have hevents : (s.fetchWord s.address).eventsOf s.aCnt.toNat
      = eventList s.address (imgRead s.img s.address) s.cfg := by
    rw [imgRead_eq_getD, State.address_toNat h.address, State.address_eq_ofNat h.address]
    rfl
  obtain ⟨e, he⟩ := exists_event_of_lt hk s.address (imgRead s.img s.address)
  obtain ⟨sr, draws, hend, -⟩ :=
    afterSequencerEvent_rejected (((s.fetchWord s.address).afterEvents k).reject landed e)
  have hrun := run_then_step (h.fetched.run_events h.event hk hrej.1)
    (h.fetched.step_afterEvents_rejected hk (hevents ▸ he) hrej)
  rw [← run_congr_step h.step_fetchWord.symm, hend, State.afterEvents, State.reject_withJ, State.fetchWord_aCnt, hevents]
    at hrun
  exact ⟨e, sr, draws, he, hrun⟩

/-! ### The load -/

/-- The addresses a load has not reached keep their cells. -/
theorem LoadBegins.run_addresses_readCell {s t : State} (h : LoadBegins s) {n : Nat} (hn : n ≤ 16)
    (hok : s.answersOk (n * s.cfg.eventCount)) (hrun : Host.Core.run core (n * s.cfg.eventCount) s = .next t) :
    ∀ b, n ≤ b → t.readCell b = s.readCell b := by
  induction n generalizing t with
  | zero =>
    rw [Nat.zero_mul] at hrun
    obtain rfl : s = t := Host.Outcome.next.inj hrun
    exact fun _ _ => rfl
  | succ n ih =>
    have hok' := hok.mono (Nat.mul_le_mul_right _ n.le_succ)
    obtain ⟨u, hu, hload⟩ := h.run_addresses (by omega) hok'
    rw [Nat.succ_mul, run_add _ hu, hload.run_next hn h.turns hok] at hrun
    obtain rfl := Host.Outcome.next.inj hrun
    obtain ⟨⟨-, -, hothers⟩, -⟩ := hload.loadAddress_target hn
    exact fun b hb => (hothers b (by omega)).trans (ih (by omega) hok' hu b (by omega))

theorem State.flatMap_eventsOf_length (s : State) (n : Nat) :
    ((List.range n).flatMap s.eventsOf).length = n * s.cfg.eventCount := by
  simp [List.length_flatMap, State.eventsOf_length]

/-- What a load leaves that has loaded the addresses below `n` and stops at event `k` of address `n`. -/
theorem LoadedTo.run_rejected {s t : State} {n k : Nat} {landed : Bool} (h : LoadedTo s n t) (hn : n < 16)
    (hturns : s.turns = []) (hk : k < s.cfg.eventCount) (hrej : s.rejectsFirst (n * s.cfg.eventCount + k) landed) :
    ∃ u, Host.Core.run core (k + 1) t = .next u
      ∧ (u.phase = .fault ∧ u.code = 4 ∧ u.aCnt.toNat = n ∧ u.j.toNat = k ∧ u.w = s.img.toList.getD n 0)
      ∧ StopsAt t u s.cfg.offset n k landed (s.delivered n)
      ∧ u.trace.length = s.trace.length + (n * s.cfg.eventCount + k) + 1 := by
  have hbegin := h.addressBegins hn hturns
  have hrej' : t.rejectsFirst k landed :=
    ⟨fun i hi => (h.answers i).trans (hrej.1 _ (by omega)), (h.answers k).trans hrej.2⟩
  obtain ⟨e, sr, draws, he, hrun⟩ := hbegin.run_rejected (h.cfg ▸ hk) hrej'
  obtain ⟨⟨hphase, hcode, haCnt, -⟩, hw, -, -, htrace, -⟩ := t.loadwordRejected_frame t.address k landed e
  have hstop := State.loadwordRejected_stopsAt (landed := landed) he h.writeEnable (.inl h.clock)
  obtain ⟨hparams, -⟩ := h.host
  have haddr : t.address.toNat = n := (State.address_toNat hbegin.address).trans h.address
  have hword : imgRead t.img t.address = s.img.toList.getD n 0 := by rw [imgRead_eq_getD, haddr, h.img]
  have hlength := s.flatMap_eventsOf_length n
  rw [haddr, hword, h.cfg, hparams] at hstop
  obtain ⟨hothers, hbefore, hfall, hafter, hq⟩ := hstop
  refine ⟨_, hrun, ⟨hphase, hcode.trans (if_neg (by simp [hbegin.phase])), haCnt ▸ h.address,
    State.afterEvents_j (s := s) hk, hw.trans hword⟩, ⟨hothers, hbefore, hfall, hafter, hq⟩, ?_⟩
  show (t.loadwordRejected t.address k landed e).trace.length = _
  rw [htrace, h.trace]
  simp [accepted, hlength, h.cfg, hk.le, Nat.add_assoc]

/-- Settles O51: the load is the addresses before the rejected event, and then an address stopped as LOADWORD is. -/
theorem faultLeavesPartialProgramming : Obligations.FaultLeavesPartialProgramming := by
  intro s n landed h hn hrej a j o
  have ha : a < 16 := Nat.div_lt_of_lt_mul (by omega)
  have hj : j < s.cfg.eventCount := Nat.mod_lt _ s.cfg.eventCount_pos
  have hsplit : a * s.cfg.eventCount + j = n := Nat.div_add_mod' n s.cfg.eventCount
  clear_value a j
  subst hsplit
  have hok : s.answersOk (a * s.cfg.eventCount) := hrej.1.mono (by omega)
  obtain ⟨t, hrun, ht⟩ := h.run_addresses ha.le hok
  have hunreached := h.run_addresses_readCell ha.le hok hrun
  obtain ⟨u, hstop, ⟨hphase, hcode, haCnt, hj', hw⟩, ⟨hothers, hbefore, hfall, hafter, hq⟩, htrace⟩ :=
    ht.run_rejected ha h.turns hj hrej
  have hown : t.readCell a = s.readCell a := hunreached a le_rfl
  rw [hown] at hbefore hfall
  exact ⟨u, (run_add (j + 1) hrun).trans hstop, hphase, hcode, haCnt, hj', hw,
    fun b hb => (hothers b hb.ne).trans (ht.cells b hb), fun b hb => (hothers b hb.ne').trans (hunreached b hb.le),
    hbefore, hfall, hafter, fun hlate => hq (.inl hlate), fun hrise hl => hq (.inr ⟨hrise, hl⟩), htrace⟩

end Sys2Proof.Machine
end

section
/-! SUPPORT. SHIFTOUT that begins with CLK high under RISING (43_shift_controller.md R92, 70_reset_and_hazards.md R133):
the first bit of the frame finds no edge, and the other seven push out all of the register but one bit. -/

namespace Sys2Proof.Machine

/-! ### All bits of the frame but the first -/

/-- After bits enough to reach place `i`, what stands there does not depend on the old register. -/
theorem foldl_shiftin_bit0_congr {bits : List Bool} (sr sr' : Byte) {i : Nat} (hi : i < 8) (h : 8 ≤ i + bits.length) :
    (bits.foldl (shiftin .bit0) sr).getLsbD i = (bits.foldl (shiftin .bit0) sr').getLsbD i := by
  rw [foldl_shiftin_bit0 _ _ hi, foldl_shiftin_bit0 _ _ hi, if_neg (by omega), if_neg (by omega)]

theorem foldl_shiftin_bit7_congr {bits : List Bool} (sr sr' : Byte) {i : Nat} (hi : i < 8) (h : i < bits.length) :
    (bits.foldl (shiftin .bit7) sr).getLsbD i = (bits.foldl (shiftin .bit7) sr').getLsbD i := by
  rw [foldl_shiftin_bit7 _ _ hi, foldl_shiftin_bit7 _ _ hi, if_pos h, if_pos h]

theorem frame_eq_cons (w : Byte) (o : Order) : ∃ b, frame w o = b :: (frame w o).tail := by
  cases o <;> exact ⟨_, rfl⟩

theorem frame_tail_length (w : Byte) (o : Order) : (frame w o).tail.length = 7 := by simp

/-- The word delivered is what the seven bits leave of a register the first bit has entered. -/
theorem deliver_eq_foldl_frame_tail (f : FirstBitLands) (w : Byte) (o : Order) :
    ∃ sr, deliver o f w = (frame w o).tail.foldl (shiftin f) sr := by
  obtain ⟨b, hframe⟩ := frame_eq_cons w o
  refine ⟨shiftin f 0 b, ?_⟩
  rw [← foldl_shiftin_frame f 0 w o, ← List.foldl_cons, ← hframe]

/-- Seven bits entering at bit 7 leave the old bit 7 at bit 0, and the word's bits above it. -/
theorem foldl_shiftin_frame_tail_bit0 (w : Byte) (o : Order) (sr : Byte) :
    ((frame w o).tail.foldl (shiftin .bit0) sr).getLsbD 0 = sr.getLsbD 7
      ∧ ∀ i, 1 ≤ i → i < 8 →
        ((frame w o).tail.foldl (shiftin .bit0) sr).getLsbD i = (deliver o .bit0 w).getLsbD i := by
  have hlen := frame_tail_length w o
  constructor
  · rw [foldl_shiftin_bit0 _ _ (by omega), hlen, if_pos (by omega)]
  · intro i h1 h8
    obtain ⟨sr', hword⟩ := deliver_eq_foldl_frame_tail .bit0 w o
    rw [hword]
    exact foldl_shiftin_bit0_congr sr sr' h8 (by omega)

/-- Seven bits entering at bit 0 leave the old bit 0 at bit 7, and the word's bits below it. -/
theorem foldl_shiftin_frame_tail_bit7 (w : Byte) (o : Order) (sr : Byte) :
    ((frame w o).tail.foldl (shiftin .bit7) sr).getLsbD 7 = sr.getLsbD 0
      ∧ ∀ i, i < 7 → ((frame w o).tail.foldl (shiftin .bit7) sr).getLsbD i = (deliver o .bit7 w).getLsbD i := by
  have hlen := frame_tail_length w o
  constructor
  · rw [foldl_shiftin_bit7 _ _ (by omega), hlen, if_neg (by omega)]
  · intro i h7
    obtain ⟨sr', hword⟩ := deliver_eq_foldl_frame_tail .bit7 w o
    rw [hword]
    exact foldl_shiftin_bit7_congr sr sr' (by omega) (by omega)

/-! ### The shift of the word -/

section

variable {s : State} (h : ¬s.shiftsEight)

include h

/-- The first bit is not shifted in; it leaves CLK low, so every other bit is. -/
theorem State.acceptAll_shbits_sr_of_not_shiftsEight (b : Bool) (bits : List Bool) :
    (s.acceptAll ((b :: bits).flatMap shbitPrims)).sr = bits.foldl (shiftin s.params.firstBit) s.sr := by
  have hready : (s.acceptAll (shbitPrims b)).shiftsEight := .inl rfl
  rw [List.flatMap_cons, State.acceptAll_append, State.acceptAll_shbits_sr hready, State.acceptAll_params,
    (s.acceptAll_shbitPrims_sr b).2 h]

theorem State.acceptAll_shiftPrims_sr_of_not_shiftsEight (w : Byte) (o : Order) :
    (s.acceptAll (shiftPrims w o)).sr = (frame w o).tail.foldl (shiftin s.params.firstBit) s.sr := by
  obtain ⟨b, hframe⟩ := frame_eq_cons w o
  have hfirst : ¬(s.accept (.set .latch false)).shiftsEight := h
  have hbits := State.acceptAll_shbits_sr_of_not_shiftsEight hfirst b (frame w o).tail
  rw [← hframe, State.accept_params] at hbits
  exact hbits

/-- LATCH transfers what the seven shifts left. -/
theorem State.acceptAll_shiftoutPrims_holdsWord_of_not_shiftsEight (w : Byte) (o : Order) :
    (s.acceptAll (shiftoutPrims w o)).holdsWord ((frame w o).tail.foldl (shiftin s.params.firstBit) s.sr) := by
  rw [shiftoutPrims_eq, State.acceptAll_append, ← State.acceptAll_shiftPrims_sr_of_not_shiftsEight h]
  exact State.acceptAll_latchPrims_holdsWord (.inr (s.acceptAll_shiftPrims_latch w o))

end

/-- Settles O31: seven shifts keep one bit of the old register, at the place of the frame's first bit. -/
theorem clockHighAtTheStartLosesABit : Obligations.ClockHighAtTheStartLosesABit := by
  intro o s hok hedge hclk
  have hseven : ¬s.shiftsEight := by simp [State.shiftsEight, hedge, hclk]
  obtain ⟨hsr, hq⟩ := State.acceptAll_shiftoutPrims_holdsWord_of_not_shiftsEight hseven s.w o
  refine ⟨_, exec_shiftout_of_answersOk hok, hq.trans hsr.symm, fun hlands => ?_, fun hlands => ?_⟩
  · rw [hsr, hlands]
    exact foldl_shiftin_frame_tail_bit0 s.w o s.sr
  · rw [hsr, hlands]
    exact foldl_shiftin_frame_tail_bit7 s.w o s.sr

end Sys2Proof.Machine
end

section
/-! SUPPORT. The target after RESET between two steps (70_reset_and_hazards.md R130 to R132). -/

namespace Sys2Proof.Machine

theorem State.withinShift_eq_true_iff (s : State) :
    s.withinShift = true ↔ s.phase = .run ∧ s.cfg.aborts s.j.toNat = true := by
  simp [State.withinShift]

/-- Settles O45: no drive of RESET writes a cell, the first settles the outputs, and only the fall of CLK shifts. -/
theorem resetLeavesTheTarget : Obligations.ResetLeavesTheTarget := by
  intro s
  have hq : s.resetBlock.q = s.qSettled := s.driveAll_resetDrives_q
  refine ⟨s.resetBlock, rfl, s.resetWith_readCell s.withinShift, hq,
    fun hout => hq.trans (s.qSettled_of_outputsFollow hout), fun hwhole => ?_⟩
  have hwithin : s.withinShift = false := Bool.eq_false_iff.2 (mt s.withinShift_eq_true_iff.1 hwhole)
  rw [State.resetBlock, hwithin, State.resetWith_sr, s.srAfterReset_false, s.driveAll_resetDrives_sr]

end Sys2Proof.Machine
end

section
/-! SUPPORT. What a step in RUN can do: the event at the sequencer's position, a change of the host's side alone, or
RESET (45_load_sequencer.md R102, 60_exceptions.md R119, R123). From it the hazard rules of the sequencer
(70_reset_and_hazards.md R135, R136, R137) and the fixed configuration (R142). -/

namespace Sys2Proof.Machine

/-! ### The lines and the outputs after an event -/

/-- The lines and the outputs of `t` are those an event leaves in `s`, accepted or rejected: a SET has driven its line
to some level (20_memory.md R40), a WAIT none. -/
def Prim.Leaves (s t : State) : Prim → Prop
  | .set p _ => ∃ level, t.lines = s.lines.set p level ∧ t.q = s.qAfter p level
  | .wait _ => t.lines = s.lines ∧ t.q = s.qSettled

theorem State.accept_leaves (s : State) (e : Prim) : e.Leaves s (s.accept e) := by
  cases e with
  | set p v => exact ⟨v, rfl, rfl⟩
  | wait d => exact ⟨rfl, rfl⟩

theorem State.reject_leaves (s : State) (landed : Bool) (e : Prim) : e.Leaves s (s.reject landed e) := by
  obtain ⟨hlines, -, hq, -⟩ := s.reject_target landed e
  cases e with
  | set p v => exact ⟨s.levelLeft p v landed, hlines, hq⟩
  | wait d => exact ⟨hlines, hq⟩

section

variable {s t : State} {e : Prim} (h : e.Leaves s t)

include h

theorem Prim.Leaves.weN (he : e.offWriteEnable = true) : t.lines.weN = s.lines.weN := by
  cases e with
  | set p v =>
    obtain ⟨level, hlines, -⟩ := h
    rw [hlines, s.lines.weN_set_other (of_decide_eq_true he)]
  | wait d => rw [h.1]

/-- With LATCH low, an event that drives no line but the write enable keeps the address and the outputs. -/
theorem Prim.Leaves.keeps_address_and_q (he : ∀ p v, e = .set p v → p = .weN) (hlow : s.lines.latch = false) :
    t.lines.address = s.lines.address ∧ t.q = s.q := by
  cases e with
  | set p v =>
    obtain rfl := he p v rfl
    obtain ⟨level, hlines, hq⟩ := h
    rw [hlines, s.lines.address_set .weN level rfl]
    exact ⟨rfl, hq.trans (s.qAfter_of_latch_low .weN level hlow)⟩
  | wait d => exact ⟨congrArg Lines.address h.1, h.2.trans (s.qSettled_of_latch_low hlow)⟩

end

/-! ### The sequencer's event -/

/-- `t` is `s` after its event `e`, which stands at the position of `s`. -/
structure AfterEvent (s t : State) (e : Prim) : Prop where
  event : EventAt s.cfg.offset s.j.toNat e
  target : e.Leaves s t
  trace : ∃ ok, t.trace = s.trace ++ [⟨e.event s.cfg, ok⟩]
  cfg : t.cfg = s.cfg
  img : t.img = s.img

/-- In RUN the sequencer's step is the event at its position. -/
theorem sequencerStep_afterEvent {s t : State} (hrun : s.phase = .run) (h : sequencerStep s = .next t) :
    ∃ e, AfterEvent s t e := by
  rcases sequencerStep_cases h with ⟨hwait, -⟩ | ⟨-, -, -, e, he, hend⟩
  · exact absurd hrun hwait
  · refine ⟨e, ?_⟩
    have hevent := eventAt_of_getElem? he
    rw [s.beginEvent_eq] at hend
    generalize (if s.j = 0 then imgRead s.img s.address else s.w) = w at hend
    rcases hend with rfl | ⟨landed, hreject⟩
    · obtain ⟨⟨-, -, -, -, -, hcfg, himg⟩, -, htrace, -⟩ := State.accept_frame { s with w := w } e
      rw [State.advance_eq]
      have hleaves := State.accept_leaves { s with w := w } e
      exact ⟨hevent, hleaves, ⟨true, htrace⟩, hcfg, himg⟩
    · obtain ⟨-, -, hcfg, himg, -, htrace, -⟩ := State.reject_frame { s with w := w } landed e
      have hleaves := State.reject_leaves { s with w := w } landed e
      rcases hreject with rfl | rfl <;> exact ⟨hevent, hleaves, ⟨false, htrace⟩, hcfg, himg⟩

/-! ### The hazard rules (R135, R136, R137) -/

theorem Prim.eq_set_of_event_eq {c : Cfg} {e : Prim} {p : Line} {v : Bool} (h : e.event c = .set p v) :
    e = .set p v := by
  cases e with
  | set =>
    cases h
    rfl
  | wait d => cases h

theorem FitsAt.latch_low {l : Lines} {o j : Nat} (h : FitsAt l o j) (hbegun : 5 + o ≤ j)
    (hj : ¬(j = 30 + o ∨ j = 31 + o)) : l.latch = false :=
  Bool.eq_false_iff.2 (mt (h.latch hbegun).1 hj)

/-- CLK is driven by the rise and the fall of a SHBIT alone. -/
theorem EventAt.set_clk {o j : Nat} {v : Bool} (h : EventAt o j (.set .clk v)) :
    ∃ k < 8, (v = true ∧ j = 6 + o + 3 * k) ∨ (v = false ∧ j = 7 + o + 3 * k) := by
  cases h with
  | address hj he => cases he
  | clockRise hk => exact ⟨_, hk, .inl ⟨rfl, rfl⟩⟩
  | clockFall hk => exact ⟨_, hk, .inr ⟨rfl, rfl⟩⟩

/-- Outside WRPULSE no event drives the write enable, and within it none drives another line. -/
theorem EventAt.writes_or_not {o j : Nat} {e : Prim} (h : EventAt o j e) :
    (e.offWriteEnable = true ∧ ¬(j = 33 + o ∨ j = 34 + o))
      ∨ ((∀ p v, e = .set p v → p = .weN) ∧ 32 + o ≤ j ∧ j ≤ 34 + o) := by
  cases h with
  | address hj he =>
    refine .inl ⟨?_, by omega⟩
    cases e with
    | set p v => exact decide_eq_true (by rintro rfl; cases he)
    | wait d => rfl
  | freeze | data | clockRise | clockFall | latchRise | latchHold | latchFall | gap => exact .inl ⟨rfl, by omega⟩
  | writeBegin | writeHold | writeEnd => exact .inr ⟨by simp, by omega, by omega⟩

/-- Settles O56: within WRPULSE the address and the outputs stay, outside it the write enable stays inactive, and CLK is
driven at positions where the fit has LATCH low and, at a rise, CLK low. -/
theorem sequencerKeepsTheHazardRules : Obligations.SequencerKeepsTheHazardRules := by
  intro s t hrun ht hfit hstep
  rw [step_of_no_turns ht] at hstep
  obtain ⟨e, hevent, htarget, ⟨ok, htrace⟩, -⟩ := sequencerStep_afterEvent hrun hstep
  have hfits := (linesFit_iff s).1 hfit
  have hclk {v ok' : Bool} (h : t.trace = s.trace ++ [⟨.set .clk v, ok'⟩]) : e = .set .clk v := by
    have hentry : e.event s.cfg = .set .clk v ∧ ok = ok' := by simpa using htrace.symm.trans h
    exact Prim.eq_set_of_event_eq hentry.1
  refine ⟨fun hchange => ?_, fun ok' h => ?_, fun v ok' h => ?_⟩
  · rcases hevent.writes_or_not with ⟨hoff, hposition⟩ | ⟨honly, h32, h34⟩
    · have hinactive := hfits.writeEnable.2 hposition
      exact ⟨hinactive, (htarget.weN hoff).trans hinactive⟩
    · have hlow := hfits.latch_low (by omega) (by omega)
      obtain ⟨haddress, hq⟩ := htarget.keeps_address_and_q honly hlow
      exact absurd hchange (by simp [haddress, hq])
  · obtain rfl := hclk h
    obtain ⟨k, hk, ⟨-, hj⟩ | ⟨hv, -⟩⟩ := hevent.set_clk
    · exact Bool.eq_false_iff.2 (mt hfits.clock.1 (by omega))
    · cases hv
  · obtain rfl := hclk h
    obtain ⟨k, hk, hposition⟩ := hevent.set_clk
    exact hfits.latch_low (by omega) (by omega)

/-! ### The configuration (R142) -/

/-- A step in RUN is the sequencer's, or changes the host's side alone, or is a RESET, whatever the turn. -/
theorem step_cases_of_run {s t : State} (hrun : s.phase = .run) (hstep : step s = .next t) :
    (∃ rest, sequencerStep { s with turns := rest } = .next t)
      ∨ (∃ rest offer reply asm, t = { s with turns := rest, offer := offer, reply := reply, asm := asm })
      ∨ t.phase = .idle := by
  rcases step_cases hstep with ⟨-, hx⟩ | ⟨turn, rest, -, hturn⟩
  · exact .inl ⟨s.turns, hx⟩
  · rcases hturn with ⟨-, hx⟩ | ⟨f, b, i, -, -, hfree, hx⟩ | ⟨f, b, k, i, -, -, -, hx⟩ | ⟨text, i, -, hparse, hx⟩
      | ⟨asm, offer, rfl⟩
    · exact .inl ⟨rest, hx⟩
    · have hoff : usesPinPath i = false := Bool.eq_false_iff.2 fun hpin => hfree ⟨hrun, hpin⟩
      rw [exec_next] at hx
      obtain rfl := Host.Outcome.next.inj hx
      rcases execState_offPinPath (s := { s with turns := rest }) hoff hrun with ⟨asm, reply, h⟩ | h <;> rw [h]
      · exact .inr (.inl ⟨rest, s.offer, reply, asm, rfl⟩)
      · exact .inr (.inr rfl)
    · exact .inr (.inr (execThenReset_phase hx))
    · obtain ⟨e, he⟩ := parseLine_entry _ _ _ _ s.params.hexCase hparse
      rw [exec_payload i { s with turns := rest } e he] at hx
      exact Host.Outcome.next.inj hx ▸ .inr (.inl ⟨rest, s.offer, s.reply, _, rfl⟩)
    · exact .inr (.inl ⟨rest, offer, s.reply, asm, rfl⟩)

/-- Settles O57: of the steps in RUN only RESET writes `CFG` or `IMG`, and it ends in IDLE. -/
theorem configurationIsFixedDuringALoad : Obligations.ConfigurationIsFixedDuringALoad := by
  intro s t hrun hstep hnotIdle
  rcases step_cases_of_run hrun hstep with ⟨rest, hx⟩ | ⟨rest, offer, reply, asm, rfl⟩ | hidle
  · obtain ⟨e, -, -, -, hcfg, himg⟩ := sequencerStep_afterEvent (s := { s with turns := rest }) hrun hx
    exact ⟨hcfg, himg⟩
  · exact ⟨rfl, rfl⟩
  · exact absurd hidle hnotIdle

end Sys2Proof.Machine
end
